-- ==== Sys2Proof/Word.lean ====
section
/-! DEFINITION. The values the block moves: bytes of an operation code, nibbles, colours, symbols, flag words
(spec/00_scope.md R10, spec/30_encoding.md R60). -/

namespace Sys2Proof

/-- One byte: an operation code (R69) or one byte of an operand. -/
abbrev Byte := BitVec 8

/-- A nibble, 0 to 15 (R10). -/
abbrev Nibble := BitVec 4

/-- A colour value: 24 bits, six nibbles and nothing else (R63). -/
abbrev Colour := BitVec 24

/-- A symbol: "a `W`-bit unsigned value" (R10). `W` is a field of the configuration, so a symbol is held as the
number; that every symbol the machine holds is below `2 ^ W` is an invariant (`State.Wf`), and CFG4 checks it of
the table (log 2). -/
abbrev Symbol := Nat

/-- The event flag word (R67): bit 1 `EVF`, bit 0 `EVH`. -/
abbrev EvFlags := BitVec 2

/-- The status word (R68): bit 1 `IDLE`, bit 0 `DONE`. -/
abbrev Status := BitVec 2

/-- The zero symbol (R65): the `W`-bit value 0, written directly and not looked up. -/
abbrev zeroSymbol : Symbol := 0

end Sys2Proof
end

