-- ==== Sys2Proof/Config.lean ====
section
/-! DEFINITION. The configuration record of spec/00_scope.md R6 and the one free value, the colour source's answer.
The record is a field of State that no step changes, so every statement holds for every configuration (log 1). -/

namespace Sys2Proof

/-- The two halves of the Output Buffer (R21). -/
inductive Half where
  | first
  | second
deriving DecidableEq, Repr

/-- The configuration checks of R7 and R8, in the order R162 tests them. -/
inductive ConfigCheck where
  | cfg1
  | cfg2
  | cfg3
  | cfg4
  | cfg5
  | cfg6
deriving DecidableEq, Repr

/-- The configuration record of R6. Raw data: whether it is well formed is `Config.firstFailing` (R7, R8). -/
structure Config where
  /-- `W`, the width of a symbol in bits. -/
  w : Nat
  /-- `SYM`, the Symbol Lookup Table (R26): a constant that no operation writes. -/
  sym : List Symbol
  /-- `C`, the capacity of the Output Buffer in slots. -/
  c : Nat
  /-- `R`, the reset preamble's length in cursor steps. -/
  r : Int
  /-- `CW`, the width of the cursor and of `ledCount` in bits. -/
  cw : Nat
  /-- `CLOSING_HALF`; the spec decides `second` (R129), and keeps the name as a parameter (D1). -/
  closingHalf : Half
deriving DecidableEq, Repr

/-- `H = C / 2` (R6). -/
def Config.h (cfg : Config) : Nat := cfg.c / 2

/-- `PRE_SYMS` (R6): zero symbols written per preamble cursor step. -/
abbrev preSyms : Nat := 2

/-- `LED_SYMS` (R6): symbols per LED. -/
abbrev ledSyms : Nat := 6

/-- Bytes of a `CW`-bit operand (log 8). -/
def Config.cwBytes (cfg : Config) : Nat := (cfg.cw + 7) / 8

/-- Bytes of a slot operand: enough for every number up to `C` (log 8). -/
def Config.slotBytes (cfg : Config) : Nat := Nat.log2 cfg.c / 8 + 1

/-- The default Symbol Lookup Table of R81. PRESUMED: R81 marks every value as general knowledge (log 2). -/
def Config.defaultSym : List Symbol :=
  [0x8888, 0x888E, 0x88E8, 0x88EE, 0x8E88, 0x8E8E, 0x8EE8, 0x8EEE,
   0xE888, 0xE88E, 0xE8E8, 0xE8EE, 0xEE88, 0xEE8E, 0xEEE8, 0xEEEE]

/-- The configuration of the machine after reset: `C = 24`, `R = 6` of program P1 (DESIGN CHOICE, log 1), the spec's
defaults for `W`, `SYM` and `CW` (PRESUMED, log 2), the closing half of R129. -/
def Config.initial : Config :=
  { w := 16, sym := Config.defaultSym, c := 24, r := 6, cw := 32, closingHalf := .second }

/-- The colour source's answer to draw number `k` when the environment has listed none: a free value (R152: "the model
assumes nothing of it except that it is a 24-bit value"). It may be wider than 24 bits; R154 truncates it (log 10). -/
opaque Config.freeColour : Nat → Nat

end Sys2Proof
end

