-- ==== Sys2Proof/Machine/ConfigCheck.lean ====
section
/-! DEFINITION. Well-formed configurations: the checks CFG1 to CFG6 of spec/00_scope.md R7 and R8, in the order of
spec/60_exceptions.md R162. -/

namespace Sys2Proof

/-- One check of R7 or R8. -/
def Config.passes (cfg : Config) : ConfigCheck → Bool
  | .cfg1 => decide (cfg.c = 2 * cfg.h) && decide (1 ≤ cfg.h)
  | .cfg2 => decide (cfg.h % 6 = 0)
  | .cfg3 => decide (0 ≤ cfg.r) && decide (cfg.r % 3 = 0)
  | .cfg4 => decide (cfg.sym.length = 16) && cfg.sym.all (fun x => decide (x < 2 ^ cfg.w)) && decide cfg.sym.Nodup
  | .cfg5 => decide (1 ≤ cfg.w)
  | .cfg6 => decide ((cfg.h : Int) ≤ 2 * cfg.r)

/-- "the first check that failed, in the order CFG1, CFG2, CFG3, CFG4, CFG5, CFG6" (R162); `none` is a well-formed
configuration. -/
def Config.firstFailing (cfg : Config) : Option ConfigCheck :=
  [ConfigCheck.cfg1, .cfg2, .cfg3, .cfg4, .cfg5, .cfg6].find? fun k => !cfg.passes k

end Sys2Proof
end

