-- ==== Sys2Proof/Syntax.lean ====
section
/-! DEFINITION. The operations of the block: one constructor per row of spec/opcode_table.json
(spec/30_encoding.md R70, spec/00_scope.md R5). -/

namespace Sys2Proof

/-- The fourteen operations with the operands R70 gives each. -/
inductive Instr where
  /-- `INIT`, 0x10 (R110). -/
  | init
  /-- `START ledCount`, 0x11 (R113); `ledCount` is signed. -/
  | start (ledCount : Int)
  /-- `POLL`, 0x12 (R115). -/
  | poll
  /-- `SERVICE`, 0x20 to 0x23 (R125); the code carries the flags the handler found. -/
  | service (flags : EvFlags)
  /-- `FILL start, count, closing`, 0x30 and 0x31 (R90). -/
  | fill (start : Nat) (count : Nat) (closing : Bool)
  /-- `ENC n`, 0x40 to 0x4F (R80). -/
  | enc (nibble : Nibble)
  /-- `ENC24 c`, 0x50 (R83). -/
  | enc24 (colour : Colour)
  /-- `ZSYM`, 0x51 (R84). -/
  | zsym
  /-- `ACK`, 0x60 (R141). -/
  | ack
  /-- `ARM`, 0x61 (R142). -/
  | arm
  /-- `DISARM`, 0x62 (R143). -/
  | disarm
  /-- `SETLEN len`, 0x63 (R144). -/
  | setlen (len : Nat)
  /-- `DRAIN`, 0x70 (R146). -/
  | drain
  /-- `GETCOLOR i`, 0x80 (R152); the index is signed. -/
  | getcolor (index : Int)
deriving DecidableEq, Repr

end Sys2Proof
end

