-- ==== Sys2Proof/Decode.lean ====
section
/-! DEFINITION. Decoding, total on any bytes and rejecting by name, and after it the encoder, both from the code map of
spec/30_encoding.md R69 to R71. Each operation is its code byte and then its operands; how many bytes an operand takes
and in which order they stand is the model's choice, read off the listings of spec/95 (log 8). -/

namespace Sys2Proof

/-- Why a byte string is not an operation. -/
inductive DecodeError where
  /-- No byte is left. -/
  | empty
  /-- R71: the code matches no row of R70. -/
  | reserved (opc : Byte)
  /-- The operand bytes of this code are not all there. -/
  | truncated (opc : Byte)
  /-- The operand's bytes hold more than the `CW` bits R70 gives it. -/
  | operandTooWide (opc : Byte)
deriving DecidableEq, Repr

/-- The rows of R70 by name. -/
inductive OpName where
  | init | start | poll | service | fill | enc | enc24 | zsym | ack | arm | disarm | setlen | drain | getcolor
deriving DecidableEq, Repr

/-- One row of the code map: selected when `opc &&& mask = pattern` (R70). -/
structure OpRow where
  name : OpName
  pattern : Byte
  mask : Byte
deriving DecidableEq, Repr

/-- The operation code map of R70. -/
def opRows : List OpRow :=
  [⟨.init, 0x10, 0xFF⟩, ⟨.start, 0x11, 0xFF⟩, ⟨.poll, 0x12, 0xFF⟩, ⟨.service, 0x20, 0xFC⟩, ⟨.fill, 0x30, 0xFE⟩,
   ⟨.enc, 0x40, 0xF0⟩, ⟨.enc24, 0x50, 0xFF⟩, ⟨.zsym, 0x51, 0xFF⟩, ⟨.ack, 0x60, 0xFF⟩, ⟨.arm, 0x61, 0xFF⟩,
   ⟨.disarm, 0x62, 0xFF⟩, ⟨.setlen, 0x63, 0xFF⟩, ⟨.drain, 0x70, 0xFF⟩, ⟨.getcolor, 0x80, 0xFF⟩]

/-- Does this row select this code? -/
def OpRow.selects (row : OpRow) (opc : Byte) : Bool := opc &&& row.mask == row.pattern

/-- The row of R70 a code byte selects; `none` is a reserved code (R71). -/
def selectOp (opc : Byte) : Option OpName := (opRows.find? (·.selects opc)).map (·.name)

/-- An unsigned number of `n` bytes, most significant byte first (log 8), after the number `acc` read so far. -/
def takeBytes : Nat → List Byte → Nat → Option (Nat × List Byte)
  | 0, bs, acc => some (acc, bs)
  | _ + 1, [], _ => none
  | n + 1, b :: bs, acc => takeBytes n bs (acc * 256 + b.toNat)

/-- An unsigned operand of `n` bytes (R69). -/
def takeUnsigned (opc : Byte) (n : Nat) (bs : List Byte) : Except DecodeError (Nat × List Byte) :=
  match takeBytes n bs 0 with
  | some r => .ok r
  | none => .error (.truncated opc)

/-- A `CW`-bit signed operand (R70): its bytes hold the two's complement word. -/
def takeSigned (cfg : Config) (opc : Byte) (bs : List Byte) : Except DecodeError (Int × List Byte) :=
  match takeBytes cfg.cwBytes bs 0 with
  | none => .error (.truncated opc)
  | some (v, rest) =>
    if v < 2 ^ cfg.cw then .ok ((BitVec.ofNat cfg.cw v).toInt, rest) else .error (.operandTooWide opc)

/-- Decode the first operation of a byte string; answers the operation and the bytes after it. -/
def decode (cfg : Config) : List Byte → Except DecodeError (Instr × List Byte)
  | [] => .error .empty
  | opc :: bs =>
    match selectOp opc with
    | none => .error (.reserved opc)
    | some .init => .ok (.init, bs)
    | some .start => (takeSigned cfg opc bs).map fun (n, rest) => (.start n, rest)
    | some .poll => .ok (.poll, bs)
    | some .service => .ok (.service (opc.setWidth 2), bs)
    | some .fill =>
      match takeUnsigned opc cfg.slotBytes bs with
      | .error e => .error e
      | .ok (start, bs) => (takeUnsigned opc cfg.slotBytes bs).map fun (count, rest) => (.fill start count (opc.getLsbD 0), rest)
    | some .enc => .ok (.enc (opc.setWidth 4), bs)
    | some .enc24 => (takeUnsigned opc 3 bs).map fun (c, rest) => (.enc24 (BitVec.ofNat 24 c), rest)
    | some .zsym => .ok (.zsym, bs)
    | some .ack => .ok (.ack, bs)
    | some .arm => .ok (.arm, bs)
    | some .disarm => .ok (.disarm, bs)
    | some .setlen => (takeUnsigned opc cfg.slotBytes bs).map fun (len, rest) => (.setlen len, rest)
    | some .drain => .ok (.drain, bs)
    | some .getcolor => (takeSigned cfg opc bs).map fun (i, rest) => (.getcolor i, rest)

/-- `v` in `n` bytes, most significant byte first (log 8). -/
def putBytes : Nat → Nat → List Byte
  | 0, _ => []
  | n + 1, v => BitVec.ofNat 8 (v / 256 ^ n) :: putBytes n v

/-- A `CW`-bit signed operand's bytes. -/
def putSigned (cfg : Config) (v : Int) : List Byte := putBytes cfg.cwBytes (BitVec.ofInt cfg.cw v).toNat

/-- The bytes of an operation (R69, R70): code byte, then operands. -/
def encode (cfg : Config) : Instr → List Byte
  | .init => [0x10]
  | .start n => 0x11 :: putSigned cfg n
  | .poll => [0x12]
  | .service f => [0x20 ||| f.setWidth 8]
  | .fill start count closing =>
    (if closing then 0x31 else 0x30) :: (putBytes cfg.slotBytes start ++ putBytes cfg.slotBytes count)
  | .enc n => [0x40 ||| n.setWidth 8]
  | .enc24 c => 0x50 :: putBytes 3 c.toNat
  | .zsym => [0x51]
  | .ack => [0x60]
  | .arm => [0x61]
  | .disarm => [0x62]
  | .setlen len => 0x63 :: putBytes cfg.slotBytes len
  | .drain => [0x70]
  | .getcolor i => 0x80 :: putSigned cfg i

/-- The bytes of the longest operation under a configuration. -/
def Config.maxOpBytes (cfg : Config) : Nat := 1 + max (max cfg.cwBytes 3) (2 * cfg.slotBytes)

/-- A number read as the opcode table numbers bits (bit 0 the lowest bit of the first byte), as bytes in the order they
stand, with every bit from `nbits` up zero and the length of the longest operation. -/
def tableBytes (cfg : Config) (nbits w : Nat) : List Byte :=
  (List.range cfg.maxOpBytes).map fun k => BitVec.ofNat 8 (w % 2 ^ nbits / 256 ^ k)

/-- What the decoder reads from an opcode-table word, under the configuration after reset. -/
def decodeTableWord (nbits w : Nat) : Option Instr :=
  match decode Config.initial (tableBytes Config.initial nbits w) with
  | .ok (i, _) => some i
  | .error _ => none

end Sys2Proof
end

