-- ==== Sys2Proof/Machine/State.lean ====
section
/-! DEFINITION. The machine's state as plain data: every row of spec/10_state.md R20, the configuration, and the model's
own inputs and output (INVENTORY.md, "State"); its value after reset (R38, R185); the faults and refusals
(spec/60_exceptions.md R162). -/

namespace Sys2Proof.Machine

/-- The Output Buffer (R21): pairs of a slot index and the symbol it holds, indices strictly rising; a slot that is
not listed holds no value (R38, log 3). -/
abbrev Memory := List (Nat × Symbol)

/-- The two events the engine raises (R30, R164). -/
inductive Event where
  | half
  | full
deriving DecidableEq, Repr

/-- What a step read that holds no value (R162, fault 0x0B: "the name or slot index"). -/
inductive UninitRead where
  | cursor
  | ledCount
  | slot (i : Nat)
deriving DecidableEq, Repr

/-- The model faults of R162 that a step raises, each with what it records. The raising step answers a next state with
`FAULT` set (R163); a step from a state with `FAULT` set answers this fault. All are safe: the machine stops where the
document says "undefined", "corrupts silently" or nothing (log 4). -/
inductive Fault where
  /-- 0x02, by `FILL` phases 1 and 2 (R100): slot index and group size. Safe. -/
  | segmentOverrun (p need : Nat)
  /-- 0x03, by `START` check 1 (R112). Safe. -/
  | startBeforeInit
  /-- 0x04, by `START` check 2 (R112, R192). Safe. -/
  | startWhileStreaming
  /-- 0x05, by `START` check 3 (R112, R191); records `REM`. Safe. -/
  | startWhileDraining (rem : Nat)
  /-- 0x06, by `START` check 4 (R112, R199); records the operand. Safe. -/
  | badLedCount (n : Int)
  /-- 0x07, by `INIT` (R111). Safe. -/
  | initWhileBusy
  /-- 0x08, by `DRAIN` (R150): which event was about to fire and the flag word found. Safe. -/
  | underrun (ev : Event) (found : EvFlags)
  /-- 0x0A, by `FILL` (R91) and `SETLEN` (R144): the operation with its operands. Safe. -/
  | badOperand (op : Instr)
  /-- 0x0B, by `FILL` and `DRAIN` (R38): what was read. Safe. -/
  | uninitialised (what : UninitRead)
deriving DecidableEq, Repr

/-- Why no step is taken. -/
inductive Refusal where
  /-- By `exec`, for an operation that has no meaning yet. Safe. -/
  | notModelled (mnemonic : String)
  /-- 0x01 of R162, by `step` before anything else: the configuration fails this check (R7, R8). Safe. -/
  | configRefused (check : ConfigCheck)
  /-- 0x09 of R162, by the decoder: a code that R70 does not assign (R71). Safe. -/
  | reservedOp (opc : Byte)
  /-- By the decoder: the operand bytes of this code are missing (log 8). Safe. -/
  | truncatedOperand (opc : Byte)
  /-- By the decoder: an operand of more than `CW` bits (log 8). Safe. -/
  | operandTooWide (opc : Byte)
  /-- By `step` for a scheduled operation that is not an enabled step (R145, R165, R172), and by `DRAIN` with
  `REM = 0` (R145, R149: the engine takes no step) (log 6). Safe. -/
  | notEnabled (op : Instr)
  /-- By `SETLEN` with a legal length while `REM > 0`: "the effect of setting the length of a running engine is never
  needed and is not defined" (R144, log 11). Safe. -/
  | setlenRunning
  /-- By `step` when neither `trace` nor `bench` holds a byte: no agent has been scheduled (log 7). Safe. -/
  | traceEmpty
deriving DecidableEq, Repr

/-- The value an operation returns to its issuer (R70, column "result"). -/
inductive OpResult where
  /-- `POLL` (R115). -/
  | status (v : Status)
  /-- `ENC` and `ZSYM` (R80, R84). -/
  | symbol (v : Symbol)
  /-- `ENC24` (R83). -/
  | sextet (v : List Symbol)
  /-- `GETCOLOR` (R152). -/
  | colour (v : Colour)
deriving DecidableEq, Repr

/-- The state of the machine. -/
structure State where
  /-- The configuration of R6; no step changes it (log 1). `SYM` (R26) is its field `sym`. -/
  cfg : Config
  /-- `BUF` (R21). -/
  buf : Memory
  /-- `CURSOR` (R22); `none` is the spec's "no value" (R38, log 3). -/
  cursor : Option Int
  /-- `LEDCOUNT` (R24); `none` is the spec's "no value" (R38, log 3). -/
  ledCount : Option Int
  /-- `DONE`, the Completion Flag (R25). -/
  done : Bool
  /-- `CIRC`, circular streaming mode armed (R27). -/
  circ : Bool
  /-- `LEN`, the transfer length (R28). -/
  len : Nat
  /-- `REM`, slots left in the current lap (R29). -/
  rem : Nat
  /-- `EVH`, half-drained event pending (R30). -/
  evh : Bool
  /-- `EVF`, full-drained event pending (R30). -/
  evf : Bool
  /-- `IRQEN`, completion interrupts armed (R31). -/
  irqen : Bool
  /-- `INITED`, `INIT` has run (R32). -/
  inited : Bool
  /-- `WIRE`, symbols shifted out since the last `START`, oldest first (R33). -/
  wire : List Symbol
  /-- `CALLS`, LED indices the colour source was called with since the last `START`, oldest first (R33). -/
  calls : List Int
  /-- `FAULT`, empty or the first model fault reached (R34). -/
  fault : Option Fault
  /-- The model's own: the value last returned by an operation that returns one (log 9). -/
  result : Option OpResult
  /-- The model's own: the scheduled steps still to run, as bytes (R72, log 7). -/
  trace : List Byte
  /-- The model's own: operations to evaluate as units, as bytes, taken before the schedule (log 7). -/
  bench : List Byte
  /-- The model's own: the answers the colour source will give, next first (R152, log 10). -/
  answers : List Nat
  /-- The model's own: how many colours have been drawn, the argument of the free value (log 10). -/
  draws : Nat
deriving DecidableEq, Repr

/-- The state after a hardware reset under a configuration (R38, R185). -/
def State.resetWith (cfg : Config) : State :=
  { cfg := cfg, buf := [], cursor := none, ledCount := none, done := true, circ := false, len := 0, rem := 0,
    evh := false, evf := false, irqen := false, inited := false, wire := [], calls := [], fault := none,
    result := none, trace := [], bench := [], answers := [], draws := 0 }

/-- The machine right after reset (R38), under the configuration of log 1. -/
def State.reset : State := State.resetWith Config.initial

end Sys2Proof.Machine
end

