-- ==== Sys2Proof/Machine/Flags.lean ====
section
/-! DEFINITION. The flag words: `EVFLAGS` (spec/30_encoding.md R67), `STATUS` (R68), and the derived conditions
`IDLE` (R115) and "handler enabled" (spec/60_exceptions.md R165). -/

namespace Sys2Proof.Machine

/-- `EVFLAGS` (R67): bit 1 `EVF`, bit 0 `EVH`. -/
def State.evFlags (s : State) : EvFlags := BitVec.ofBool s.evf ++ BitVec.ofBool s.evh

/-- `IDLE`: the engine has halted or never ran, `REM = 0` (R68, R115). -/
def State.idle (s : State) : Bool := decide (s.rem = 0)

/-- `STATUS` (R68): bit 1 `IDLE`, bit 0 `DONE`. -/
def State.status (s : State) : Status := BitVec.ofBool s.idle ++ BitVec.ofBool s.done

/-- An event is pending (R30, R165). -/
def State.pending (s : State) : Bool := s.evh || s.evf

/-- `SERVICE` is enabled: `IRQEN = 1`, an event pending, `FAULT` empty (R165). -/
def State.serviceEnabled (s : State) : Bool := s.fault.isNone && (s.irqen && s.pending)

end Sys2Proof.Machine
end

