-- ==== Sys2Proof/Machine/Operands.lean ====
section
/-! DEFINITION. Operand forms: the nibbles of a colour (spec/30_encoding.md R64), the segments of the buffer (R66,
spec/20_memory.md R41), the range of `ledCount` (spec/42 R112), the levels of a symbol (spec/44 R151). -/

namespace Sys2Proof

/-- Nibble `k` of a colour: `(c >> (20 - 4 * k)) & 0xF` (R64). -/
def Colour.nibble (c : Colour) (k : Nat) : Nibble := ((c >>> (20 - 4 * k)) &&& 0xF).setWidth 4

/-- The six nibbles, most significant first (R44, R64). -/
def Colour.nibbles (c : Colour) : List Nibble := (List.range ledSyms).map c.nibble

/-- The answer of the colour source as the block uses it: bits 23:0 and nothing else (R154). -/
def Colour.ofAnswer (answer : Nat) : Colour := BitVec.ofNat 24 answer

/-- First slot of a half (R21, R41). -/
def Config.halfStart (cfg : Config) : Half → Nat
  | .first => 0
  | .second => cfg.h

/-- The closing bit of the call that refills a half: `cf` and `cs` of R66. -/
def Config.closingBit (cfg : Config) (half : Half) : Bool := decide (cfg.closingHalf = half)

/-- Check 4 of R112: `0 <= ledCount <= 2^(CW-1) - 2`, written without the division (`2 * n + 4 <= 2^CW`). -/
def Config.ledCountOk (cfg : Config) (n : Int) : Bool := decide (0 ≤ n) && decide (2 * n + 4 ≤ 2 ^ cfg.cw)

/-- The segment `[start, start + count)` lies inside the buffer (R91). -/
def Config.segmentInside (cfg : Config) (start count : Nat) : Bool := decide (start + count ≤ cfg.c)

/-- The line levels of one symbol, one per serial clock, most significant bit first, 1 as high (R43, R151; the bit
order is PRESUMED, log 14). -/
def symbolLevels (w : Nat) (v : Symbol) : List Bool := (List.range w).map fun k => v.testBit (w - 1 - k)

/-- The line levels of everything shifted out since the last `START`, with no gap between symbols (R151). -/
def Machine.State.lineLevels (s : Machine.State) : List Bool := s.wire.flatMap (symbolLevels s.cfg.w)

/-- One protocol bit's cell, four serial clocks (R62). -/
def protocolCell : Bool → BitVec 4
  | true => 0b1110
  | false => 0b1000

/-- The symbol the cell rule gives a nibble: cell 3 carries nibble bit 3 (R61, R62, R81). -/
def cellSymbol (n : Nibble) : Symbol :=
  (protocolCell (n.getLsbD 3) ++ protocolCell (n.getLsbD 2) ++ protocolCell (n.getLsbD 1)
    ++ protocolCell (n.getLsbD 0)).toNat

end Sys2Proof
end

