-- ==== Sys2Proof/Machine/Ops.lean ====
section
/-! DEFINITION. The named operations over memory and registers (spec/00_scope.md R11), raising a model fault
(spec/60_exceptions.md R163), interrupt entry and return (R168, R169), the hardware-control interface (spec/44 R140),
and one call of the colour source (R152). -/

namespace Sys2Proof.Machine

/-! The Output Buffer -/

/-- The symbol in one slot; `none` is "no value" (R38). -/
def Memory.read : Memory → Nat → Option Symbol
  | [], _ => none
  | (a, v) :: rest, i => if i = a then some v else Memory.read rest i

/-- `MemRead(addr, n)` (R11): `n` consecutive slots from `addr`. -/
def Memory.readRange (m : Memory) (addr n : Nat) : List (Option Symbol) :=
  (List.range n).map fun k => Memory.read m (addr + k)

/-- `BUF[i] <- v` (R11, R46): one whole symbol to one slot, keeping the indices strictly rising. -/
def Memory.write : Memory → Nat → Symbol → Memory
  | [], i, v => [(i, v)]
  | (a, u) :: rest, i, v =>
    if i < a then (i, v) :: (a, u) :: rest
    else if i = a then (i, v) :: rest
    else (a, u) :: Memory.write rest i v

/-- `MemWrite(addr, n, vs)` (R11): the list `vs` to consecutive slots from `addr`, lowest slot first. -/
def Memory.writeList : Memory → Nat → List Symbol → Memory
  | m, _, [] => m
  | m, addr, v :: vs => Memory.writeList (Memory.write m addr v) (addr + 1) vs

/-- The canonical form: slot indices strictly rising. -/
abbrev Memory.wf (m : Memory) : Prop := m.Pairwise fun a b => a.1 < b.1

/-! Registers -/

/-- `MemWrite` on the state's buffer. -/
def State.memWrite (s : State) (addr : Nat) (vs : List Symbol) : State := { s with buf := Memory.writeList s.buf addr vs }

/-- `CURSOR <- c`. -/
def State.setCursor (s : State) (c : Int) : State := { s with cursor := some c }

/-- `DONE <- b`. -/
def State.setDone (s : State) (b : Bool) : State := { s with done := b }

/-- `REM <- n`. -/
def State.setRem (s : State) (n : Nat) : State := { s with rem := n }

/-- `emit(v)`: `WIRE <- WIRE ++ [v]` (R11, R146). -/
def State.emit (s : State) (v : Symbol) : State := { s with wire := s.wire ++ [v] }

/-- The engine sets the pending flag of an event (R147, R148). -/
def State.setEvent (s : State) : Event → State
  | .half => { s with evh := true }
  | .full => { s with evf := true }

/-- Hand a value to the issuer of an operation (R70, log 9). -/
def State.setResult (s : State) (r : OpResult) : State := { s with result := some r }

/-! The hardware-control interface (R140) -/

/-- `ACK`: `EVH <- 0; EVF <- 0` (R141). -/
def State.ackEvents (s : State) : State := { s with evh := false, evf := false }

/-- `ARM`: `CIRC <- 1` (R142). -/
def State.armCircular (s : State) : State := { s with circ := true }

/-- `DISARM`: `CIRC <- 0` (R143). -/
def State.disarmCircular (s : State) : State := { s with circ := false }

/-- `SETLEN len`: `LEN <- len; REM <- len` (R144). -/
def State.setLength (s : State) (n : Nat) : State := { s with len := n, rem := n }

/-! The Symbol Encoder -/

/-- `ENC(n) = SYM[n]` (R80). A table shorter than 16 entries fails CFG4 and no step runs with it; there the lookup
answers 0 (log 12). -/
def encodeNibble (cfg : Config) (n : Nibble) : Symbol := cfg.sym.getD n.toNat 0

/-- `ENC24(c)` (R83): the six symbols of a colour, most significant nibble first. -/
def encodeColour (cfg : Config) (c : Colour) : List Symbol := c.nibbles.map (encodeNibble cfg)

/-! The colour source -/

/-- The answer `k` calls from now: the environment's if it has listed one, else the free value (R152, log 10). -/
def State.nextColour (s : State) (k : Nat) : Colour :=
  Colour.ofAnswer ((s.answers[k]?).getD (Config.freeColour (s.draws + k)))

/-- The state after `GetColor(i)`: the call is recorded and the answer consumed (R152). -/
def State.logCall (s : State) (i : Int) : State :=
  { s with calls := s.calls ++ [i], answers := s.answers.tail, draws := s.draws + 1 }

/-! Ends of a sub-operation, and raising a model fault -/

/-- How a sub-operation ends: it goes on, or it has raised a model fault in a state that keeps the changes made before
the `raise` (R163). -/
inductive Flow where
  | go (s : State)
  | raised (f : Fault) (s : State)
deriving DecidableEq, Repr

/-- Go on with `k` unless a fault has been raised. -/
def Flow.andThen : Flow → (State → Flow) → Flow
  | .go s, k => k s
  | .raised f s, _ => .raised f s

/-- `raise f` (R163, R34): `FAULT` is set to the fault, unless an earlier fault stands there. -/
def State.raise (s : State) (f : Fault) : State := { s with fault := s.fault.or (some f) }

/-- The end of an operation: a next state in both cases (R163, log 4). -/
def Flow.finish : Flow → Host.Outcome State Fault Refusal
  | .go s => .next s
  | .raised f s => .next (s.raise f)

/-- Interrupt entry: "Taking the interrupt saves nothing and changes nothing" (R168). -/
def State.interruptEntry (s : State) : State := s

/-- Return from the handler: "the `SERVICE` step simply ends and restores nothing" (R169). -/
def State.interruptReturn (s : State) : State := s

/-! Codes of the model faults -/

/-- The code of a recorded fault (R162). -/
def Fault.code : Fault → Byte
  | .segmentOverrun _ _ => 0x02
  | .startBeforeInit => 0x03
  | .startWhileStreaming => 0x04
  | .startWhileDraining _ => 0x05
  | .badLedCount _ => 0x06
  | .initWhileBusy => 0x07
  | .underrun _ _ => 0x08
  | .badOperand _ => 0x0A
  | .uninitialised _ => 0x0B

/-- The code of a refusal that R162 lists; the others are the model's own. -/
def Refusal.code : Refusal → Option Byte
  | .configRefused _ => some 0x01
  | .reservedOp _ => some 0x09
  | _ => none

end Sys2Proof.Machine
end

