-- ==== Sys2Proof/Machine/Encoder.lean ====
section
/-! DEFINITION. The Symbol Encoder family: `ENC`, `ENC24`, `ZSYM` (spec/40_symbol_encoder.md R80, R83, R84). None of the
three writes a state of R20 or can fault; the value returned is the model's `result` (log 9). -/

namespace Sys2Proof.Machine

/-- `ENC n` (R80). -/
def execEnc (n : Nibble) (s : State) : Host.Outcome State Fault Refusal :=
  .next (s.setResult (.symbol (encodeNibble s.cfg n)))

/-- `ENC24 c` (R83). -/
def execEnc24 (c : Colour) (s : State) : Host.Outcome State Fault Refusal :=
  .next (s.setResult (.sextet (encodeColour s.cfg c)))

/-- `ZSYM` (R84). -/
def execZsym (s : State) : Host.Outcome State Fault Refusal :=
  .next (s.setResult (.symbol zeroSymbol))

end Sys2Proof.Machine
end

