-- ==== Sys2Proof/Machine/Engine.lean ====
section
/-! DEFINITION. The hardware-control interface, the streaming engine and the colour source: `ACK`, `ARM`, `DISARM`,
`SETLEN`, `DRAIN`, `GETCOLOR` (spec/44_engine_and_colour_source.md R140 to R154). -/

namespace Sys2Proof.Machine

/-- `ACK` (R141). -/
def execAck (s : State) : Host.Outcome State Fault Refusal := .next s.ackEvents

/-- `ARM` (R142). -/
def execArm (s : State) : Host.Outcome State Fault Refusal := .next s.armCircular

/-- `DISARM` (R143). -/
def execDisarm (s : State) : Host.Outcome State Fault Refusal := .next s.disarmCircular

/-- `SETLEN len` (R144): 0 or `C`, else `BadOperand`; on a running engine the effect "is not defined" (log 11). -/
def execSetlen (n : Nat) (s : State) : Host.Outcome State Fault Refusal :=
  if n = 0 ∨ n = s.cfg.c then
    if s.rem = 0 then .next (s.setLength n) else .refused .setlenRunning
  else .next (s.raise (.badOperand (.setlen n)))

/-- An event is about to fire (R147, R148): `Underrun` if any flag is pending (R150), else its flag is set. -/
def fireEvent (ev : Event) (s : State) : Flow :=
  if s.pending then .raised (.underrun ev s.evFlags) s else .go (s.setEvent ev)

/-- The half-drained event (R147): after the slot `H - 1` has been consumed. -/
def halfDrained (s : State) : Flow :=
  if s.rem = s.cfg.c - s.cfg.h then fireEvent .half s else .go s

/-- The engine reads `CIRC`, at a lap end only (R148): wrap or halt. -/
def lapEnd (s : State) : State := if s.circ then s.setRem s.cfg.c else s

/-- The full-drained event and the lap end (R148): after the slot `C - 1` has been consumed. -/
def fullDrained (s : State) : Flow :=
  if s.rem = 0 then (fireEvent .full s).andThen fun t => .go (lapEnd t) else .go s

/-- `DRAIN` (R145, R146). With `REM = 0` the engine has no step (R149, log 6). -/
def execDrain (s : State) : Host.Outcome State Fault Refusal :=
  if s.rem = 0 then .refused (.notEnabled .drain)
  else
    match Memory.read s.buf (s.cfg.c - s.rem) with
    | none => .next (s.raise (.uninitialised (.slot (s.cfg.c - s.rem))))
    | some v => ((halfDrained ((s.emit v).setRem (s.rem - 1))).andThen fullDrained).finish

/-- `GETCOLOR i` (R152): the call is recorded and the answer returned. -/
def execGetcolor (i : Int) (s : State) : Host.Outcome State Fault Refusal :=
  .next ((s.logCall i).setResult (.colour (s.nextColour 0)))

end Sys2Proof.Machine
end

