-- ==== Sys2Proof/Machine/Filler.lean ====
section
/-! DEFINITION. The Buffer-Segment Filler: `FILL`, phase by phase from the pseudocode of spec/41_segment_filler.md R102.
`p` is the next slot to write, `fin` the end of the segment, `c` the cursor and `n` the LED count. -/

namespace Sys2Proof.Machine

/-- How phase 1 or 2 ends: at a slot with a cursor, or with a model fault. -/
inductive PhaseEnd where
  | at (p : Nat) (c : Int) (s : State)
  | raised (f : Fault) (s : State)
deriving DecidableEq, Repr

/-- One cursor step of phase 1 (R93): a pair of zero symbols, then `CURSOR <- CURSOR + 1`. -/
def preambleStep (p : Nat) (c : Int) (s : State) : State :=
  (s.memWrite p [zeroSymbol, zeroSymbol]).setCursor (c + 1)

/-- Phase 1, reset preamble (R93, R102). The fuel is the number of slots, more than the loop can take. -/
def fillPreamble (fin : Nat) : Nat → Nat → Int → State → PhaseEnd
  | 0, p, c, s => .at p c s
  | fuel + 1, p, c, s =>
    if c < 0 ∧ p ≠ fin then
      if fin - p < preSyms then .raised (.segmentOverrun p preSyms) s
      else fillPreamble fin fuel (p + preSyms) (c + 1) (preambleStep p c s)
    else .at p c s

/-- One LED of phase 2 (R94): `GetColor(CURSOR)`, its six symbols, then `CURSOR <- CURSOR + 1`. -/
def ledStep (p : Nat) (c : Int) (s : State) : State :=
  ((s.logCall c).memWrite p (encodeColour s.cfg (s.nextColour 0))).setCursor (c + 1)

/-- Phase 2, LED data (R94, R102). -/
def fillLeds (n : Int) (fin : Nat) : Nat → Nat → Int → State → PhaseEnd
  | 0, p, c, s => .at p c s
  | fuel + 1, p, c, s =>
    if p ≠ fin ∧ 0 ≤ c ∧ c < n then
      if fin - p < ledSyms then .raised (.segmentOverrun p ledSyms) s
      else fillLeds n fin fuel (p + ledSyms) (c + 1) (ledStep p c s)
    else .at p c s

/-- The mode-disable sequencer (R96): the closing transition. -/
def closeFrame (n : Int) (closing : Bool) (s : State) : State :=
  if closing = true ∧ s.cursor = some n then s.disarmCircular.setCursor (n + 1) else s

/-- The completion detector (R97), evaluated after the closing transition. -/
def detectCompletion (n : Int) (s : State) : State :=
  if s.cursor = some (n + 1) then s.setDone true else s

/-- Phase 3, padding, mode-disable sequencer, completion detector (R95 to R97, R102). -/
def fillPadding (n : Int) (fin : Nat) (closing : Bool) (p : Nat) (c : Int) (s : State) : State :=
  if p ≠ fin ∧ n ≤ c then
    detectCompletion n (closeFrame n closing (s.memWrite p (List.replicate (fin - p) zeroSymbol)))
  else s

/-- The three phases on a segment that lies inside the buffer (R92, R102). -/
def fillPhases (start count : Nat) (closing : Bool) (c n : Int) (s : State) : Flow :=
  match fillPreamble (start + count) count start c s with
  | .raised f t => .raised f t
  | .at p c t =>
    match fillLeds n (start + count) count p c t with
    | .raised f u => .raised f u
    | .at p c u => .go (fillPadding n (start + count) closing p c u)

/-- `FILL(start, count, closing)` (R102): the two `require`s, then the phases. The operation that `FILL`, `START` and
`SERVICE` share. -/
def fillSegment (start count : Nat) (closing : Bool) (s : State) : Flow :=
  if s.cfg.segmentInside start count then
    match s.cursor, s.ledCount with
    | none, _ => .raised (.uninitialised .cursor) s
    | some _, none => .raised (.uninitialised .ledCount) s
    | some c, some n => fillPhases start count closing c n s
  else .raised (.badOperand (.fill start count closing)) s

/-- `FILL start, count, closing` (R90). -/
def execFill (start count : Nat) (closing : Bool) (s : State) : Host.Outcome State Fault Refusal :=
  (fillSegment start count closing s).finish

end Sys2Proof.Machine
end

