-- ==== Sys2Proof/Machine/Handler.lean ====
section
/-! DEFINITION. The Completion Handler: `SERVICE` (spec/43_completion_handler.md R125 to R135). -/

namespace Sys2Proof.Machine

/-- Refill one half if its event was found pending (R127, R128), with the closing bit of R66 and R129. -/
def refillHalf (half : Half) (found : Bool) (s : State) : Flow :=
  if found then fillSegment (s.cfg.halfStart half) s.cfg.h (s.cfg.closingBit half) s else .go s

/-- The handler's body (R125): snapshot, acknowledge, first half, second half. -/
def serviceBody (s : State) : Flow :=
  (refillHalf .first s.evh s.ackEvents).andThen (refillHalf .second s.evf)

/-- `SERVICE` (R125): "Operands: none explicit; it reads `EVH` and `EVF`". The flags in the code record what the handler
found; the meaning reads the state, and a scheduled `SERVICE` is enabled only with the right code (log 13). -/
def execService (_flags : EvFlags) (s : State) : Host.Outcome State Fault Refusal :=
  ((serviceBody s.interruptEntry).andThen fun t => .go t.interruptReturn).finish

end Sys2Proof.Machine
end

