-- ==== Sys2Proof/Machine/Transfer.lean ====
section
/-! DEFINITION. The Transfer Controller: `INIT`, `START`, `POLL` (spec/42_transfer_controller.md R110 to R115). -/

namespace Sys2Proof.Machine

/-- `IRQEN <- 1; DONE <- 1; INITED <- 1` (R110). -/
def State.setUp (s : State) : State := { s with irqen := true, done := true, inited := true }

/-- `INIT` (R110, R111). -/
def execInit (s : State) : Host.Outcome State Fault Refusal :=
  if s.done = true ∧ s.rem = 0 then .next ((s.ackEvents.setLength 0).setUp)
  else .next (s.raise .initWhileBusy)

/-- The first precondition of `START` that fails, in the order of R112. -/
def startFault (n : Int) (s : State) : Option Fault :=
  if s.inited = false then some .startBeforeInit
  else if s.done = false then some .startWhileStreaming
  else if s.rem ≠ 0 then some (.startWhileDraining s.rem)
  else if s.cfg.ledCountOk n = false then some (.badLedCount n)
  else none

/-- The writes of `START` before its `FILL` (R113): `DONE`, `CURSOR`, `LEDCOUNT`, and the two traces. -/
def State.beginFrame (s : State) (n : Int) : State :=
  { s with done := false, cursor := some (-s.cfg.r), ledCount := some n, wire := [], calls := [] }

/-- `START ledCount` (R112, R113): the checks, the writes, the initial fill, `ARM`, `SETLEN(C)`, in the order of
spec/20_memory.md R51. -/
def execStart (n : Int) (s : State) : Host.Outcome State Fault Refusal :=
  match startFault n s with
  | some f => .next (s.raise f)
  | none =>
    ((fillSegment 0 s.cfg.c false (s.beginFrame n)).andThen fun t => .go (t.armCircular.setLength t.cfg.c)).finish

/-- `POLL` (R115): returns the status word, writes no state of R20. -/
def execPoll (s : State) : Host.Outcome State Fault Refusal :=
  .next (s.setResult (.status s.status))

end Sys2Proof.Machine
end

