-- ==== Sys2Proof/Machine/Dispatch.lean ====
section
/-! DEFINITION. One operation's meaning, by constructor (spec/30_encoding.md R70). -/

namespace Sys2Proof.Machine

def exec (i : Instr) (s : State) : Host.Outcome State Fault Refusal :=
  match i with
  -- Transfer Controller
  | .init => Sys2Proof.Machine.execInit s
  | .start n => Sys2Proof.Machine.execStart n s
  | .poll => Sys2Proof.Machine.execPoll s
  -- Completion Handler
  | .service flags => Sys2Proof.Machine.execService flags s
  -- Buffer-Segment Filler
  | .fill start count closing => Sys2Proof.Machine.execFill start count closing s
  -- Symbol Encoder
  | .enc n => Sys2Proof.Machine.execEnc n s
  | .enc24 c => Sys2Proof.Machine.execEnc24 c s
  | .zsym => Sys2Proof.Machine.execZsym s
  -- Hardware-control interface, engine, colour source
  | .ack => Sys2Proof.Machine.execAck s
  | .arm => Sys2Proof.Machine.execArm s
  | .disarm => Sys2Proof.Machine.execDisarm s
  | .setlen n => Sys2Proof.Machine.execSetlen n s
  | .drain => Sys2Proof.Machine.execDrain s
  | .getcolor index => Sys2Proof.Machine.execGetcolor index s

end Sys2Proof.Machine
end

