-- ==== Sys2Proof/Machine/Schedule.lean ====
section
/-! DEFINITION. Agents, contexts and which step is enabled (spec/00_scope.md R12, spec/60_exceptions.md R165, R170, R172,
spec/44 R145); the pseudo-operations of the trace language (spec/30_encoding.md R73). -/

namespace Sys2Proof.Machine

/-- Who issues an operation (R12, R70). -/
inductive Issuer where
  /-- The caller, in normal context. -/
  | host
  /-- The Completion Handler, in interrupt context. -/
  | handler
  /-- The streaming engine; in neither context (R170). -/
  | engine
  /-- A sub-operation: performed inside a step of the others (R12). -/
  | inside
deriving DecidableEq, Repr

/-- The two execution contexts (R170). -/
inductive Context where
  | normal
  | interrupt
deriving DecidableEq, Repr

/-- The column "issued by" of R70. -/
def issuedBy : Instr → Issuer
  | .init => .host
  | .start _ => .host
  | .poll => .host
  | .service _ => .handler
  | .fill _ _ _ => .inside
  | .enc _ => .inside
  | .enc24 _ => .inside
  | .zsym => .inside
  | .ack => .inside
  | .arm => .inside
  | .disarm => .inside
  | .setlen _ => .inside
  | .drain => .engine
  | .getcolor _ => .inside

/-- The context an agent runs in (R170); the engine is hardware, and a sub-operation runs in its caller's. -/
def Issuer.context : Issuer → Option Context
  | .host => some .normal
  | .handler => some .interrupt
  | .engine => none
  | .inside => none

/-- The handler's two states (R36, R133). -/
inductive HandlerState where
  | idle
  | streaming
deriving DecidableEq, Repr

/-- Idle is `DONE = 1` and Streaming is `DONE = 0` (R36). -/
def State.handlerState (s : State) : HandlerState := if s.done then .idle else .streaming

/-- Is this operation, as a step of its own, enabled? Nothing is with a fault recorded (R34); the host is preempted by an
enabled event (R172); `SERVICE` needs one (R165) and its code carries the flags found (R70, log 13); `DRAIN` needs
`REM > 0` (R145); a sub-operation is no step (R12). -/
def enabled (i : Instr) (s : State) : Bool :=
  s.fault.isNone &&
    match i with
    | .service flags => s.serviceEnabled && flags == s.evFlags
    | .drain => !s.idle
    | i => issuedBy i == .host && !s.serviceEnabled

/-- One step of an agent: the recorded fault stops it (R34), else the operation if it is enabled, else no step. -/
def agentStep (i : Instr) (s : State) : Host.Outcome State Fault Refusal :=
  match s.fault with
  | some f => .fault f
  | none => if enabled i s then exec i s else .refused (.notEnabled i)

/-- A list of agent steps, one after the other. -/
def runSteps : List Instr → State → Host.Outcome State Fault Refusal
  | [], s => .next s
  | i :: is, s =>
    match agentStep i s with
    | .next t => runSteps is t
    | .fault f => .fault f
    | .refused r => .refused r

/-- `DRAIN*k` (R73). -/
def drainTimes (k : Nat) : List Instr := List.replicate k .drain

/-- The body of `RUN` (R73), the eager schedule: `SERVICE` if an event is pending and enabled, else `DRAIN` if the engine
runs, else stop. -/
def eagerChoice (s : State) : Option Instr :=
  if s.irqen && s.pending then some (.service s.evFlags)
  else if s.idle then none
  else some .drain

/-- The body of `RUN` repeated at most `fuel` times, until `stop` holds or the body stops. `stop` is tested before the first
body, so a loop whose condition holds already takes no step: R73 leaves that open (DESIGN CHOICE, log 18). -/
def runUntil (stop : State → Bool) : Nat → State → Host.Outcome State Fault Refusal
  | 0, s => .next s
  | fuel + 1, s =>
    if stop s then .next s
    else
      match eagerChoice s with
      | none => .next s
      | some i =>
        match agentStep i s with
        | .next t => runUntil stop fuel t
        | .fault f => .fault f
        | .refused r => .refused r

/-- `RUN` (R73), at most `fuel` steps of it. -/
def runEager (fuel : Nat) (s : State) : Host.Outcome State Fault Refusal := runUntil (fun _ => false) fuel s

/-- `FRAME n` (R73): `START n`, then `RUN`. -/
def runFrame (n : Int) (fuel : Nat) (s : State) : Host.Outcome State Fault Refusal :=
  match agentStep (.start n) s with
  | .next t => runEager fuel t
  | .fault f => .fault f
  | .refused r => .refused r

/-- Would a `POLL` taken here return a wanted status? Only where the host may step: "a `POLL` never observes a pending event's
unserved state" (R172). -/
def pollFinds (want : Status → Bool) (s : State) : Bool := enabled .poll s && want s.status

/-- The body of `RUN` until a `POLL` returns a wanted status, and that `POLL` itself. The polls before it write no state of the
spec (R115) and are left out; if the body stops first, or the fuel ends, no `POLL` is taken (DESIGN CHOICE, log 18). -/
def waitFor (want : Status → Bool) (fuel : Nat) (s : State) : Host.Outcome State Fault Refusal :=
  match runUntil (pollFinds want) fuel s with
  | .next t => if pollFinds want t then agentStep .poll t else .next t
  | .fault f => .fault f
  | .refused r => .refused r

/-- `WAITDONE` (R73): the body of `RUN` until `POLL` returns bit 0 = 1. -/
def waitDone (fuel : Nat) (s : State) : Host.Outcome State Fault Refusal := waitFor (fun v => v.getLsbD 0) fuel s

/-- `WAITIDLE` (R73): the body of `RUN` until `POLL` returns bits 1:0 = `0b11`. -/
def waitIdle (fuel : Nat) (s : State) : Host.Outcome State Fault Refusal := waitFor (fun v => v == 0b11) fuel s

end Sys2Proof.Machine
end

