-- ==== Sys2Proof/Machine/Fetch.lean ====
section
/-! DEFINITION. Where the next operation comes from. The block fetches no instructions (spec/00_scope.md R5); the model's
steps are those of a trace (spec/30_encoding.md R72), or an operation evaluated as a unit, as the vectors of spec/95
sections 2.1, 2.2 and 2.5 evaluate them (log 7). -/

namespace Sys2Proof.Machine

/-- A byte string that is no operation, as a refusal (R71, R162). -/
def Refusal.ofDecode : DecodeError → Refusal
  | .empty => .traceEmpty
  | .reserved opc => .reservedOp opc
  | .truncated opc => .truncatedOperand opc
  | .operandTooWide opc => .operandTooWide opc

/-- The next operation of `bench`, which runs as a unit, with the state it is taken from. -/
def fetchUnit (s : State) : Except Refusal (Instr × State) :=
  match decode s.cfg s.bench with
  | .error e => .error (Refusal.ofDecode e)
  | .ok (i, rest) => .ok (i, { s with bench := rest })

/-- The next step of `trace`, which must be enabled (R145, R165, R172). -/
def fetchScheduled (s : State) : Except Refusal (Instr × State) :=
  match decode s.cfg s.trace with
  | .error e => .error (Refusal.ofDecode e)
  | .ok (i, rest) => if enabled i s then .ok (i, { s with trace := rest }) else .error (.notEnabled i)

/-- The next operation: of `bench` if it holds a byte, else of `trace`. -/
def fetch (s : State) : Except Refusal (Instr × State) :=
  if s.bench.isEmpty then fetchScheduled s else fetchUnit s

/-- `s` with an opcode-table word placed as the next operation to run. -/
def placeWord (s : State) (nbits w : Nat) : State := { s with bench := tableBytes s.cfg nbits w }

end Sys2Proof.Machine
end

