-- ==== Sys2Proof/Machine/Step.lean ====
section
/-! DEFINITION. One step of the machine. -/

namespace Sys2Proof.Machine

/-- One step: a configuration that fails a check runs nothing (spec/00_scope.md R7, spec/60_exceptions.md R162); with a
fault recorded no step is defined (spec/10_state.md R34, spec/60_exceptions.md R163) and the machine stops with it;
otherwise the next operation runs. -/
def step (s : State) : Host.Outcome State Fault Refusal :=
  match s.cfg.firstFailing with
  | some k => .refused (.configRefused k)
  | none =>
    match s.fault with
    | some f => .fault f
    | none =>
      match fetch s with
      | .error r => .refused r
      | .ok (i, t) => exec i t

/-- `s` with an instruction of the opcode table stored where `step` fetches its next one. -/
def State.withFetchWord (s : State) (nbits w : Nat) : State := placeWord s nbits w

end Sys2Proof.Machine
end

