-- ==== Sys2Proof/Safety.lean ====
section
/-! DEFINITION. What the claims are stated in: the end of a run (spec/00_scope.md R15), the real-time premise (R9), the
logical stream (R18, spec/41_segment_filler.md R103), and the invariants of a run. -/

namespace Sys2Proof.Machine

/-- A frame is over (R15): engine halted, no event pending, `DONE = 1`, no fault. -/
def State.frameOver (s : State) : Prop :=
  s.rem = 0 ∧ s.evh = false ∧ s.evf = false ∧ s.done = true ∧ s.fault = none

/-- Would a `DRAIN` of this state fire an event (R147, R148)? -/
def State.drainFires (s : State) : Prop :=
  s.rem = 1 ∨ s.rem = s.cfg.c - s.cfg.h + 1

/-- The real-time premise at one `DRAIN` (R9): no event is pending when the engine fires its next one. -/
def State.realTimeOk (s : State) : Prop := s.drainFires → s.pending = false

/-- The model faults a scheduled run can meet (R38, R100): a host that breaks a precondition, or a breach of the
real-time premise. -/
def Fault.isPremiseBreach : Fault → Bool
  | .startBeforeInit => true
  | .startWhileStreaming => true
  | .startWhileDraining _ => true
  | .badLedCount _ => true
  | .initWhileBusy => true
  | .underrun _ _ => true
  | .segmentOverrun _ _ => false
  | .badOperand _ => false
  | .uninitialised _ => false

/-! The logical stream -/

/-- `T = 2 * R + 6 * ledCount` (R18). -/
def frameSymbols (cfg : Config) (n : Nat) : Nat := 2 * cfg.r.toNat + 6 * n

/-- `k* = max(1, floor(T / C))` (R104). -/
def closingLap (cfg : Config) (n : Nat) : Nat := max 1 (frameSymbols cfg n / cfg.c)

/-- The symbol at a stream index (R18): zero symbols, the sextets of the colours `f`, zero symbols for ever. -/
def streamSymbol (cfg : Config) (f : Nat → Colour) (n i : Nat) : Symbol :=
  if i < 2 * cfg.r.toNat then zeroSymbol
  else if i < frameSymbols cfg n then
    encodeNibble cfg ((f ((i - 2 * cfg.r.toNat) / 6)).nibble ((i - 2 * cfg.r.toNat) % 6))
  else zeroSymbol

/-- The cursor position whose first symbol is at a stream index that is a multiple of 6, and `ledCount` past the last
LED (R103). -/
def cursorAt (cfg : Config) (n p : Nat) : Int :=
  if p < 2 * cfg.r.toNat then (p / 2 : Nat) - cfg.r
  else if p < frameSymbols cfg n then ((p - 2 * cfg.r.toNat) / 6 : Nat)
  else n

/-- How many LEDs stand whole in the first `p` symbols of the stream: the colours pulled so far (R153). -/
def ledsBefore (cfg : Config) (n p : Nat) : Nat := min n ((p - 2 * cfg.r.toNat) / 6)

/-! One `FILL`, by its cursor -/

/-- Slots the preamble still needs from a cursor: two per cursor step (R93, R101). -/
def preambleSlots (c : Int) : Nat := 2 * (-c).toNat

/-- Slots the LEDs still to come need from a cursor: six per LED (R94, R101). -/
def ledSlots (c n : Int) : Nat := 6 * (n - max c 0).toNat

/-- The symbol a call writes to its slot number `j` (R93 to R95): silence, the sextets of the coming colours, silence. -/
def fillSymbol (s : State) (c n : Int) (j : Nat) : Symbol :=
  if j < preambleSlots c then zeroSymbol
  else if j < preambleSlots c + ledSlots c n then
    encodeNibble s.cfg ((s.nextColour ((j - preambleSlots c) / 6)).nibble ((j - preambleSlots c) % 6))
  else zeroSymbol

/-- Every group that a call of `count` slots starts fits (R100): it ends inside the preamble at a pair, or inside the LEDs
at a sextet, or past them. -/
abbrev groupsFit (c n : Int) (count : Nat) : Prop :=
  (count ≤ preambleSlots c ∧ count % 2 = 0) ∨
  (preambleSlots c ≤ count ∧ (count - preambleSlots c) % 6 = 0) ∨
  preambleSlots c + ledSlots c n ≤ count

/-- How many LEDs a call of `count` slots writes whole (R94). -/
def ledsWritten (c n : Int) (count : Nat) : Nat := min (ledSlots c n) (count - preambleSlots c) / 6

/-- The cursor after the two data phases of a call of `count` slots (R101). -/
def cursorAfterData (c n : Int) (count : Nat) : Int :=
  c + ((min (preambleSlots c) count / 2 + ledsWritten c n count : Nat) : Int)

/-! Invariants -/

/-- The shape of the state that every step keeps, of a unit operation too: the buffer's canonical form and range, the
width of every symbol (R10), the ranges of `LEN` and `REM` (R20, R28), `INITED = IRQEN` (R32). -/
structure State.Wf (s : State) : Prop where
  bufSorted : Memory.wf s.buf
  bufInside : ∀ e ∈ s.buf, e.1 < s.cfg.c
  bufWidth : ∀ e ∈ s.buf, e.2 < 2 ^ s.cfg.w
  wireWidth : ∀ v ∈ s.wire, v < 2 ^ s.cfg.w
  lenRange : s.len = 0 ∨ s.len = s.cfg.c
  remRange : s.rem ≤ s.cfg.c
  armedOnce : s.inited = s.irqen
  oneFlag : ¬(s.evh = true ∧ s.evf = true)

/-- A frame has been started since reset: registers and buffer hold values, in the ranges of R22 and R23; the flag and
circular mode are each other's opposite (R96, R97, R113), and a streaming frame's engine runs (R115); the cursor of an
unfinished preamble stands on a group boundary (R100). -/
structure State.Started (s : State) (c n : Int) : Prop where
  cursor : s.cursor = some c
  ledCount : s.ledCount = some n
  inited : s.inited = true
  countRange : 0 ≤ n
  cursorLow : -s.cfg.r ≤ c
  cursorHigh : c ≤ n + 1
  cursorAligned : c < 0 → c % 3 = 0
  terminalIffDone : c = n + 1 ↔ s.done = true
  slotsHold : ∀ i, i < s.cfg.c → ∃ v, Memory.read s.buf i = some v
  halfBehind : s.evh = true → 0 < s.rem ∧ s.rem ≤ s.cfg.c - s.cfg.h
  fullBehind : s.evf = true → s.rem = 0 ∨ s.cfg.c - s.cfg.h < s.rem
  streamingRuns : s.done = false → 0 < s.rem

/-- No frame since reset: the state of R38, or of R186 after an `INIT`, in what matters to a run. -/
structure State.Fresh (s : State) : Prop where
  cursor : s.cursor = none
  ledCount : s.ledCount = none
  done : s.done = true
  rem : s.rem = 0
  noHalf : s.evh = false
  noFull : s.evf = false

/-- The invariant of a run of scheduled steps: no fault, no unit operation placed, well-formed configuration and state,
`CIRC` the opposite of `DONE`, and the frame's facts. -/
structure State.RunInv (s : State) : Prop where
  config : s.cfg.firstFailing = none
  noFault : s.fault = none
  noUnit : s.bench = []
  wf : s.Wf
  circ : s.circ = !s.done
  phase : s.Fresh ∨ ∃ c n, s.Started c n

/-- How many symbols the producer has written when `l` have been shifted out: the initial fill, and one half for each
event fired and served (R103). -/
def producedAt (s : State) : Nat :=
  s.cfg.c + s.cfg.h * (s.wire.length / s.cfg.h) - (if s.pending then s.cfg.h else 0)

/-- The frame of `n` LEDs in flight or over is the logical stream of the colours `f`: what has been shifted out, what
stands in the buffer, where the cursor is, which colours have been pulled and which are to come (R103), and when the
frame closes (R104). -/
structure State.Streams (f : Nat → Colour) (n : Nat) (s : State) : Prop where
  config : s.cfg.firstFailing = none
  noFault : s.fault = none
  armed : s.irqen = true
  ledCount : s.ledCount = some (n : Int)
  oneFlag : ¬(s.evh = true ∧ s.evf = true)
  wire : s.wire = (List.range s.wire.length).map (streamSymbol s.cfg f n)
  remRange : s.rem ≤ s.cfg.c
  lap : (s.wire.length + s.rem) % s.cfg.c = 0
  halfParity : s.evh = true → s.wire.length / s.cfg.h % 2 = 1
  fullParity : s.evf = true → s.wire.length / s.cfg.h % 2 = 0 ∧ s.cfg.h ≤ s.wire.length
  buffer : ∀ i, producedAt s ≤ i + s.cfg.c → i < producedAt s →
    Memory.read s.buf (i % s.cfg.c) = some (streamSymbol s.cfg f n i)
  circ : s.circ = !s.done
  cursor : s.cursor = some (if s.done then (n : Int) + 1 else cursorAt s.cfg n (producedAt s))
  calls : s.calls = (List.range (ledsBefore s.cfg n (producedAt s))).map Int.ofNat
  colours : ∀ k, s.nextColour k = f (ledsBefore s.cfg n (producedAt s) + k)
  streaming : s.done = false → 0 < s.rem ∧
    (producedAt s / s.cfg.c * s.cfg.c ≤ frameSymbols s.cfg n ∨ producedAt s < 2 * s.cfg.c)
  closing : s.done = true → (closingLap s.cfg n + 1) * s.cfg.c ≤ producedAt s ∧
    closingLap s.cfg n * s.cfg.c ≤ s.wire.length ∧ s.wire.length + s.rem = (closingLap s.cfg n + 1) * s.cfg.c

end Sys2Proof.Machine
end

