-- ==== Sys2Proof/WellFormed.lean ====
section
/-! DEFINITION. Which operations a configuration can encode: every operand within "the width given in rule R70"
(spec/30_encoding.md R69, R70). A value that an operation itself refuses (`START` of a count out of range, a `FILL`
outside the buffer) is well formed here and meets the operation's own rule (R71). -/

namespace Sys2Proof

/-- `v` is a `cw`-bit signed integer. -/
abbrev fitsSigned (cw : Nat) (v : Int) : Prop := -(2 ^ cw) ≤ 2 * v ∧ 2 * v < 2 ^ cw

/-- `v` is written in the bytes of a slot operand. -/
abbrev fitsSlot (cfg : Config) (v : Nat) : Prop := v < 256 ^ cfg.slotBytes

/-- An operation whose operands have the widths of R70; the widths of nibble, colour and flags are in their types. -/
def Instr.wf (cfg : Config) : Instr → Bool
  | .init => true
  | .start n => decide (fitsSigned cfg.cw n)
  | .poll => true
  | .service _ => true
  | .fill first count _ => decide (fitsSlot cfg first) && decide (fitsSlot cfg count)
  | .enc _ => true
  | .enc24 _ => true
  | .zsym => true
  | .ack => true
  | .arm => true
  | .disarm => true
  | .setlen len => decide (fitsSlot cfg len)
  | .drain => true
  | .getcolor i => decide (fitsSigned cfg.cw i)

end Sys2Proof
end

