-- ==== Sys2Proof/Certificates/Slice0/Obligations.lean ====
section
/-! DEFINITION. The statements for the provers, family by family: encoding, the step, the Symbol Encoder, the Filler, the
Transfer Controller, the Completion Handler, the engine and its interface, reset, and the invariants of a run. A statement's
docstring names the rules of spec/ it formalises, or says that it rests on a choice of the model and names the log entry. -/

open Sys2Proof Sys2Proof.Machine

/-! Encoding -/

/-- Decoding the bytes of a well-formed operation, with any bytes after them, gives the operation and those bytes, under every
configuration. The byte layout of operands is the model's choice (log 8). -/
def Obligations.DecodeOfEncodeIsTheOperation : Prop :=
  ∀ (cfg : Config) (i : Instr) (rest : List Byte), i.wf cfg = true → decode cfg (encode cfg i ++ rest) = .ok (i, rest)

/-- Every byte string that decodes is the encoding of the well-formed operation it decodes to, followed by what is left: no
operation has two spellings and none is ill formed. The byte layout of operands is the model's choice (log 8). -/
def Obligations.DecodedBytesAreTheEncoding : Prop :=
  ∀ (cfg : Config) (bs : List Byte) (i : Instr) (rest : List Byte), decode cfg bs = .ok (i, rest) →
    i.wf cfg = true ∧ bs = encode cfg i ++ rest

/-- Words written out from the code map of R70 and the listings of programs P1 and P7 decode to the operations they stand for
(operand bytes as the listings show them, log 8). -/
def Obligations.ListedWordsDecode : Prop :=
  decode Config.initial [0x11, 0x00, 0x00, 0x00, 0x01] = .ok (.start 1, []) ∧
  decode Config.initial [0x11, 0xFF, 0xFF, 0xFF, 0xFF] = .ok (.start (-1), []) ∧
  decode Config.initial [0x30, 0x00, 0x18] = .ok (.fill 0 24 false, []) ∧
  decode Config.initial [0x31, 0x0C, 0x0C] = .ok (.fill 12 12 true, []) ∧
  decode Config.initial [0x22] = .ok (.service 0b10, []) ∧
  decode Config.initial [0x4A] = .ok (.enc 0xA, []) ∧
  decode Config.initial [0x50, 0xFF, 0x00, 0x00] = .ok (.enc24 0xFF0000, []) ∧
  decode Config.initial [0x63, 0x18] = .ok (.setlen 24, []) ∧
  decode Config.initial [0x70, 0x21] = .ok (.drain, [0x21]) ∧
  decode Config.initial [0x80, 0x00, 0x00, 0x00, 0x00] = .ok (.getcolor 0, [])

/-- R71: a code that R70 does not assign spells no operation, whatever follows it, and a scheduled one is refused with
`ReservedOp`; 223 of the 256 codes are reserved. -/
def Obligations.ReservedCodesAreRefused : Prop :=
  let assigned : List Nat :=
    [0x10, 0x11, 0x12, 0x20, 0x21, 0x22, 0x23, 0x30, 0x31] ++ (List.range 16).map (0x40 + ·) ++
      [0x50, 0x51, 0x60, 0x61, 0x62, 0x63, 0x70, 0x80]
  (∀ (opc : Byte), opc.toNat ∉ assigned →
    (∀ cfg bs, decode cfg (opc :: bs) = .error (.reserved opc)) ∧
    ∀ (s : State) (bs : List Byte), s.cfg.firstFailing = none → s.fault = none → s.bench = [] → s.trace = opc :: bs →
      step s = .refused (.reservedOp opc)) ∧
  ((List.range 256).filter fun k => k ∉ assigned).length = 223

/-! The step -/

/-- A step runs the decoded operation. With a well-formed configuration and no fault recorded: the operation of `bench`, when
`bench` decodes, as a unit; with `bench` empty, the operation of `trace`, when it decodes and is an enabled step. What `step`
adds around `exec` is that the operation's bytes are taken off. `trace` and `bench` are the model's own (log 7). -/
def Obligations.StepRunsTheDecodedOperation : Prop :=
  ∀ (s : State) (i : Instr) (rest : List Byte), s.cfg.firstFailing = none → s.fault = none →
    (decode s.cfg s.bench = .ok (i, rest) → step s = exec i { s with bench := rest }) ∧
    (s.bench = [] → decode s.cfg s.trace = .ok (i, rest) → enabled i s = true → step s = exec i { s with trace := rest })

/-- Which operations are enabled steps of a state (R145, R165, R172). `DRAIN` exactly when `REM > 0` and no fault is recorded;
`SERVICE` exactly when `IRQEN = 1`, a flag is pending and no fault is recorded, and its code carries the flags found (that a
code with other flags is not enabled is the model's reading, log 13); a host step only when `SERVICE` is not enabled, that is
when `IRQEN = 0` or `EVH = EVF = 0`; a sub-operation never (R12). -/
def Obligations.EnabledStepsOfEachAgent : Prop :=
  ∀ (s : State),
    (enabled .drain s = true ↔ 0 < s.rem ∧ s.fault = none) ∧
    (∀ f, enabled (.service f) s = true ↔
      s.irqen = true ∧ (s.evh = true ∨ s.evf = true) ∧ s.fault = none ∧
        f.toNat = (if s.evf then 2 else 0) + (if s.evh then 1 else 0)) ∧
    (∀ i, issuedBy i = .host → (enabled i s = true ↔
      s.fault = none ∧ (s.irqen = false ∨ (s.evh = false ∧ s.evf = false)))) ∧
    (∀ i, issuedBy i = .inside → enabled i s = false)

/-- A scheduled operation that is not an enabled step is not run: the model refuses it by name (the form of the stop is the
model's choice, log 6). -/
def Obligations.DisabledStepsAreRefused : Prop :=
  ∀ (s : State) (i : Instr) (rest : List Byte), s.cfg.firstFailing = none → s.fault = none → s.bench = [] →
    decode s.cfg s.trace = .ok (i, rest) → enabled i s = false → step s = .refused (.notEnabled i)

/-- R34: once `FAULT` is set no step is defined and nothing clears it: no operation of any agent is enabled, and whatever is
scheduled or placed the machine stops with that fault; and `FAULT` is the first one reached: a later `raise` keeps it. -/
def Obligations.NoStepAfterAFault : Prop :=
  ∀ (s : State) (f : Fault), s.cfg.firstFailing = none → s.fault = some f →
    step s = .fault f ∧ (∀ i, enabled i s = false ∧ agentStep i s = .fault f) ∧ ∀ g, (s.raise g).fault = some f

/-- R7, R8: a configuration is well formed exactly when the checks CFG1 to CFG6 hold; each check is named exactly when its own
condition fails and those before it, in the order of R162, hold; and a configuration that fails one runs no step: it is refused
with `ConfigRefused` of that check. -/
def Obligations.IllFormedConfigurationsAreRefused : Prop :=
  (∀ cfg : Config,
    let c1 := cfg.c = 2 * (cfg.c / 2) ∧ 1 ≤ cfg.c / 2
    let c2 := cfg.c / 2 % 6 = 0
    let c3 := 0 ≤ cfg.r ∧ cfg.r % 3 = 0
    let c4 := cfg.sym.length = 16 ∧ (∀ x ∈ cfg.sym, x < 2 ^ cfg.w) ∧ cfg.sym.Nodup
    let c5 := 1 ≤ cfg.w
    let c6 := ((cfg.c / 2 : Nat) : Int) ≤ 2 * cfg.r
    (cfg.firstFailing = none ↔ c1 ∧ c2 ∧ c3 ∧ c4 ∧ c5 ∧ c6) ∧
    (cfg.firstFailing = some .cfg1 ↔ ¬c1) ∧
    (cfg.firstFailing = some .cfg2 ↔ c1 ∧ ¬c2) ∧
    (cfg.firstFailing = some .cfg3 ↔ c1 ∧ c2 ∧ ¬c3) ∧
    (cfg.firstFailing = some .cfg4 ↔ c1 ∧ c2 ∧ c3 ∧ ¬c4) ∧
    (cfg.firstFailing = some .cfg5 ↔ c1 ∧ c2 ∧ c3 ∧ c4 ∧ ¬c5) ∧
    (cfg.firstFailing = some .cfg6 ↔ c1 ∧ c2 ∧ c3 ∧ c4 ∧ c5 ∧ ¬c6)) ∧
  (∀ (s : State) (k : ConfigCheck), s.cfg.firstFailing = some k → step s = .refused (.configRefused k))

/-! The Symbol Encoder -/

/-- R80: `ENC n`, code `0x40 | n`, answers a next state for every nibble; it returns `SYM[n]` and writes nothing else (that the
value is held in the model's `result` field is log 9). -/
def Obligations.EncReturnsTheTableEntry : Prop :=
  ∀ (s : State) (n : Nibble), s.cfg.sym.length = 16 →
    (encode s.cfg (.enc n)).head? = some (BitVec.ofNat 8 (0x40 + n.toNat)) ∧
    ∃ x, s.cfg.sym[n.toNat]? = some x ∧ exec (.enc n) s = .next { s with result := some (.symbol x) }

/-- R82: under a well-formed configuration `ENC` is injective; and so is `ENC24` (R83's derived corner case). -/
def Obligations.EncoderIsInjective : Prop :=
  (∀ (s : State) (n m : Nibble), s.cfg.firstFailing = none → exec (.enc n) s = exec (.enc m) s → n = m) ∧
  (∀ (s : State) (c d : Colour), s.cfg.firstFailing = none → exec (.enc24 c) s = exec (.enc24 d) s → c = d)

/-- R83: `ENC24 c`, code `0x50`, answers a next state for every colour; it returns six symbols, symbol `k` the table entry of
`(c >> (20 - 4k)) & 0xF`, and writes nothing else (`result` is log 9). -/
def Obligations.Enc24EncodesSixNibbles : Prop :=
  ∀ (s : State) (c : Colour), s.cfg.sym.length = 16 → (encode s.cfg (.enc24 c)).head? = some 0x50 ∧
    ∃ v, exec (.enc24 c) s = .next { s with result := some (.sextet v) } ∧ v.length = 6 ∧
      ∀ k, k < 6 → v[k]? = s.cfg.sym[c.toNat / 2 ^ (20 - 4 * k) % 16]?

/-- R62, R81: the default table spells each nibble as four cells, `1110` for a 1 and `1000` for a 0, nibble bit 3 first, and
meets CFG4. The values are PRESUMED, as R81 marks them (log 2). -/
def Obligations.DefaultTableFollowsTheCellRule : Prop :=
  ∀ n : Nibble, Config.defaultSym[n.toNat]? = some (cellSymbol n) ∧
    cellSymbol n = ((List.range 4).map fun k => (if n.getLsbD k then 14 else 8) * 16 ^ k).sum ∧
    Config.initial.passes .cfg4 = true

/-- R84: `ZSYM`, code `0x51`, answers a next state; it returns 0 and writes nothing else (`result` is log 9). -/
def Obligations.ZsymReturnsZero : Prop :=
  ∀ s : State, (encode s.cfg .zsym).head? = some 0x51 ∧ exec .zsym s = .next { s with result := some (.symbol 0) }

/-! The Buffer-Segment Filler -/

/-- R91: a `FILL` whose segment does not lie inside the buffer raises `BadOperand` and changes nothing else; one with `count =
0` inside it answers the same state: it writes nothing and changes nothing. -/
def Obligations.FillChecksItsSegment : Prop :=
  (∀ (s : State) (start count : Nat) (closing : Bool), s.fault = none → s.cfg.c < start + count →
    exec (.fill start count closing) s = .next { s with fault := some (.badOperand (.fill start count closing)) }) ∧
  (∀ (s : State) (start : Nat) (closing : Bool) (c n : Int), start ≤ s.cfg.c → s.cursor = some c → s.ledCount = some n →
    exec (.fill start 0 closing) s = .next s)

/-- R102's second `require`: a `FILL` inside the buffer with no value in `CURSOR`, or with one there but none in `LEDCOUNT`,
raises `Uninitialised` and changes nothing else. That the fault names `CURSOR` also when both hold no value is the model's
choice (log 3). -/
def Obligations.FillWithoutValuesFaults : Prop :=
  ∀ (s : State) (start count : Nat) (closing : Bool), s.fault = none → start + count ≤ s.cfg.c →
    (s.cursor = none →
      exec (.fill start count closing) s = .next { s with fault := some (.uninitialised .cursor) }) ∧
    (∀ c, s.cursor = some c → s.ledCount = none →
      exec (.fill start count closing) s = .next { s with fault := some (.uninitialised .ledCount) })

/-- R93, R94, R95, R99: when every group it starts fits, `FILL` answers a next state with no new fault and writes every slot of
its segment: silence for the preamble, the sextets of the coming colours, silence; every other slot reads as before, and only
`BUF`, `CURSOR`, `DONE`, `CIRC`, `CALLS` and the colour source's own fields are written. -/
def Obligations.FillWritesItsSegment : Prop :=
  ∀ (s : State) (start count : Nat) (closing : Bool) (c n : Int), start + count ≤ s.cfg.c → s.cursor = some c →
    s.ledCount = some n → groupsFit c n count →
    ∃ t, exec (.fill start count closing) s = .next t ∧
      (∀ j, j < count → Memory.read t.buf (start + j) = some (fillSymbol s c n j)) ∧
      (∀ j, j < start ∨ start + count ≤ j → Memory.read t.buf j = Memory.read s.buf j) ∧
      t = { s with buf := t.buf, cursor := t.cursor, done := t.done, circ := t.circ, calls := t.calls,
                   answers := t.answers, draws := t.draws }

/-- How such a `FILL` writes the registers. `CURSOR` advances by 1 per pair in phase 1, by 1 per sextet in phase 2, and by 1 at
the closing transition (R101); the colour source is called once per LED written, with the cursor as index (R94). `CIRC` is
cleared exactly by the transition, in a closing call that pads at `LEDCOUNT` (R96), `DONE` is set exactly there or when the call
pads at `LEDCOUNT + 1` (R97); a call that does not pad leaves both unchanged, closing or not (R95). -/
def Obligations.FillAdvancesTheCursor : Prop :=
  ∀ (s t : State) (start count : Nat) (closing : Bool) (c n : Int), start + count ≤ s.cfg.c → s.cursor = some c →
    s.ledCount = some n → groupsFit c n count → exec (.fill start count closing) s = .next t →
    let pairs := min (preambleSlots c) count / 2
    let leds := min (ledSlots c n) (count - preambleSlots c) / 6
    let reached : Int := c + pairs + leds
    let padded := preambleSlots c + ledSlots c n < count
    let closes := padded ∧ closing = true ∧ reached = n
    t.cursor = some (if closes then n + 1 else reached) ∧
    t.circ = (if closes then false else s.circ) ∧
    t.done = (if closes ∨ (padded ∧ reached = n + 1) then true else s.done) ∧
    t.calls = s.calls ++ (List.range leds).map (fun j : Nat => c + pairs + (j : Int)) ∧
    t.answers = s.answers.drop leds ∧ t.draws = s.draws + leds

/-- R96, R97: a `FILL` entered at `CURSOR = LEDCOUNT` pads all its slots; closing, it disarms, moves the cursor to `LEDCOUNT +
1` and sets `DONE` in the same call; not closing, it changes nothing else. Entered at the terminal value it pads and sets
`DONE`, and does not touch `CIRC`. -/
def Obligations.ClosingFillDisarmsAndCompletes : Prop :=
  ∀ (s : State) (start count : Nat) (closing : Bool) (n : Int), 0 ≤ n → 0 < count → start + count ≤ s.cfg.c →
    s.ledCount = some n →
    (s.cursor = some n → exec (.fill start count true) s =
      .next { s with buf := Memory.writeList s.buf start (List.replicate count 0), circ := false, cursor := some (n + 1),
                     done := true }) ∧
    (s.cursor = some n → exec (.fill start count false) s =
      .next { s with buf := Memory.writeList s.buf start (List.replicate count 0) }) ∧
    (s.cursor = some (n + 1) → exec (.fill start count closing) s =
      .next { s with buf := Memory.writeList s.buf start (List.replicate count 0), done := true })

/-- R100: when a group does not fit, `FILL` raises `SegmentOverrun(p, need)` with `p` the slot the group would start at: the
groups before it stay written (`CURSOR` and `CALLS` count them), nothing of it is, no colour is pulled for it, and `DONE` and
`CIRC` are untouched. -/
def Obligations.FillOverrunsAtTheGroupThatDoesNotFit : Prop :=
  ∀ (s : State) (start count : Nat) (closing : Bool) (c n : Int), s.fault = none → start + count ≤ s.cfg.c →
    s.cursor = some c → s.ledCount = some n → ¬ groupsFit c n count →
    let pairs := min (preambleSlots c) count / 2
    let leds := min (ledSlots c n) (count - preambleSlots c) / 6
    let p := start + 2 * pairs + 6 * leds
    let need := if count < preambleSlots c then 2 else 6
    ∃ t, exec (.fill start count closing) s = .next t ∧ t.fault = some (.segmentOverrun p need) ∧
      p < start + count ∧ start + count - p < need ∧ t.cursor = some (c + pairs + leds) ∧
      t.calls = s.calls ++ (List.range leds).map (fun j : Nat => c + pairs + (j : Int)) ∧
      (∀ j, start + j < p → Memory.read t.buf (start + j) = some (fillSymbol s c n j)) ∧
      (∀ j, j < start ∨ p ≤ j → Memory.read t.buf j = Memory.read s.buf j) ∧
      t = { s with buf := t.buf, cursor := t.cursor, calls := t.calls, answers := s.answers.drop leds,
                   draws := s.draws + leds, fault := t.fault }

/-- R90's "State written", for every form of `FILL`, faulting or not: the slots of its segment, `CURSOR`, `DONE` to 1 only,
`CIRC` to 0 only, `CALLS` (longer only), and beside them the model's own fields of the colour source (log 10) and `FAULT`. -/
def Obligations.FillWritesOnlyItsState : Prop :=
  ∀ (s t : State) (start count : Nat) (closing : Bool), exec (.fill start count closing) s = .next t →
    t = { s with buf := t.buf, cursor := t.cursor, done := t.done, circ := t.circ, calls := t.calls,
                 answers := t.answers, draws := t.draws, fault := t.fault } ∧
    (∀ j, j < start ∨ start + count ≤ j → Memory.read t.buf j = Memory.read s.buf j) ∧
    (s.done = true → t.done = true) ∧ (t.circ = true → s.circ = true) ∧ s.calls <+: t.calls

/-! The Transfer Controller -/

/-- R110, R111: `INIT`, code `0x10`, with `DONE = 1` and `REM = 0` answers a next state: both flags and the length cleared,
interrupts armed, the flag set, nothing else written; otherwise it raises `InitWhileBusy` and changes nothing else. -/
def Obligations.InitSetsUpOrFaults : Prop :=
  ∀ s : State, (encode s.cfg .init).head? = some 0x10 ∧
    (s.done = true → s.rem = 0 → exec .init s =
      .next { s with evh := false, evf := false, len := 0, rem := 0, irqen := true, done := true, inited := true }) ∧
    (s.fault = none → s.done = false ∨ 0 < s.rem → exec .init s = .next { s with fault := some .initWhileBusy })

/-- A second `INIT` after one that ran leaves the state unchanged (R110's derived "Idempotent"). -/
def Obligations.InitIsIdempotent : Prop :=
  ∀ s t : State, s.fault = none → exec .init s = .next t → t.fault = none → exec .init t = .next t

/-- R112: the four checks of `START` in the order tested, each with its fault and no other change. -/
def Obligations.StartChecksItsPreconditions : Prop :=
  ∀ (s : State) (n : Int), s.fault = none → 1 ≤ s.cfg.cw →
    (s.inited = false → exec (.start n) s = .next { s with fault := some .startBeforeInit }) ∧
    (s.inited = true → s.done = false → exec (.start n) s = .next { s with fault := some .startWhileStreaming }) ∧
    (s.inited = true → s.done = true → 0 < s.rem →
      exec (.start n) s = .next { s with fault := some (.startWhileDraining s.rem) }) ∧
    (s.inited = true → s.done = true → s.rem = 0 → (n < 0 ∨ 2 ^ (s.cfg.cw - 1) - 2 < n) →
      exec (.start n) s = .next { s with fault := some (.badLedCount n) })

/-- R113, under the checks of R112: `START n`, code `0x11`, clears the flag, loads cursor and LED count, restarts both traces,
performs `FILL 0, C, 0` on that state, and then arms circular mode and sets the length, which starts the engine; a fault of the
`FILL` ends the step there. It holds for every configuration and count. -/
def Obligations.StartFillsArmsAndSetsTheLength : Prop :=
  ∀ (s u : State) (n : Int), s.fault = none → 1 ≤ s.cfg.cw → s.inited = true → s.done = true → s.rem = 0 → 0 ≤ n →
    n ≤ 2 ^ (s.cfg.cw - 1) - 2 →
    exec (.fill 0 s.cfg.c false)
      { s with done := false, cursor := some (-s.cfg.r), ledCount := some n, wire := [], calls := [] } = .next u →
    (encode s.cfg (.start n)).head? = some 0x11 ∧
    (u.fault = none → exec (.start n) s = .next { u with circ := true, len := s.cfg.c, rem := s.cfg.c }) ∧
    (u.fault ≠ none → exec (.start n) s = .next u)

/-- What R113 comes to under a well-formed configuration (R188): `START n` answers a next state with no fault: `DONE = 0`,
`LEDCOUNT = n`, the buffer holding stream indices 0 to `C - 1` of the colours to come, the cursor at the position of stream
index `C`, circular mode armed, `LEN = REM = C`, both traces restarted; nothing else is written but the colour source's own
fields. -/
def Obligations.StartSeedsTheWholeBuffer : Prop :=
  ∀ (s : State) (n : Nat), s.cfg.firstFailing = none → 1 ≤ s.cfg.cw → s.inited = true → s.done = true → s.rem = 0 →
    (n : Int) ≤ 2 ^ (s.cfg.cw - 1) - 2 →
    ∃ t, exec (.start n) s = .next t ∧ t.done = false ∧ t.ledCount = some (n : Int) ∧ t.circ = true ∧ t.len = s.cfg.c ∧
      t.rem = s.cfg.c ∧ t.wire = [] ∧
      (∀ i, i < s.cfg.c → Memory.read t.buf i = some (streamSymbol s.cfg s.nextColour n i)) ∧
      (∀ i, s.cfg.c ≤ i → Memory.read t.buf i = Memory.read s.buf i) ∧
      t.cursor = some (cursorAt s.cfg n s.cfg.c) ∧
      t.calls = (List.range (min n ((s.cfg.c - 2 * s.cfg.r.toNat) / 6))).map Int.ofNat ∧
      t = { s with buf := t.buf, cursor := t.cursor, ledCount := t.ledCount, done := t.done, circ := t.circ, len := t.len,
                   rem := t.rem, wire := t.wire, calls := t.calls, answers := t.answers, draws := t.draws }

/-- R115: `POLL`, code `0x12`, answers a next state from every state: it returns `(IDLE << 1) | DONE` and writes nothing else
(`result` is log 9). -/
def Obligations.PollReturnsTheStatus : Prop :=
  ∀ s : State, (encode s.cfg .poll).head? = some 0x12 ∧ ∃ v : Status,
    v.toNat = (if s.rem = 0 then 2 else 0) + (if s.done then 1 else 0) ∧
    exec .poll s = .next { s with result := some (.status v) }

/-! The Completion Handler -/

/-- R125 (with R126 to R131): `SERVICE`, code `0x20` plus the flags, clears both flags and then performs, on that state, exactly
the `FILL`s of the events it found: the first half, not closing, for the half-drained event; then the second half, closing, for
the full-drained one; a fault of the first ends the step; with no flag found nothing changes. -/
def Obligations.ServiceAcknowledgesThenRefills : Prop :=
  ∀ (s : State) (f : EvFlags), s.cfg.closingHalf = .second → s.fault = none →
    let acked := { s with evh := false, evf := false }
    (encode s.cfg (.service f)).head? = some (BitVec.ofNat 8 (0x20 + f.toNat)) ∧
    (s.evh = false → s.evf = false → exec (.service f) s = .next s) ∧
    (s.evh = true → s.evf = false → exec (.service f) s = exec (.fill 0 s.cfg.h false) acked) ∧
    (s.evh = false → s.evf = true → exec (.service f) s = exec (.fill s.cfg.h s.cfg.h true) acked) ∧
    (s.evh = true → s.evf = true → ∀ u, exec (.fill 0 s.cfg.h false) acked = .next u →
      (u.fault = none → exec (.service f) s = exec (.fill s.cfg.h s.cfg.h true) u) ∧
      (u.fault ≠ none → exec (.service f) s = .next u))

/-- `SERVICE` completes: under a well-formed configuration, with values in the registers and the cursor of an unfinished
preamble on a group boundary (R100), it answers a next state with no fault and no flag pending; every slot of a half whose event
was found holds a value, every other slot reads as before (R127, R128), and only the state R125 names is written. -/
def Obligations.ServiceCompletes : Prop :=
  ∀ (s : State) (f : EvFlags) (c n : Int), s.cfg.firstFailing = none → s.fault = none → s.cursor = some c →
    s.ledCount = some n → (c < 0 → c % 3 = 0) →
    ∃ t, exec (.service f) s = .next t ∧ t.fault = none ∧ t.evh = false ∧ t.evf = false ∧
      (∀ j, (s.evh = true ∧ j < s.cfg.h) ∨ (s.evf = true ∧ s.cfg.h ≤ j ∧ j < s.cfg.c) →
        ∃ v, Memory.read t.buf j = some v) ∧
      (∀ j, ¬ ((s.evh = true ∧ j < s.cfg.h) ∨ (s.evf = true ∧ s.cfg.h ≤ j ∧ j < s.cfg.c)) →
        Memory.read t.buf j = Memory.read s.buf j) ∧
      t = { s with buf := t.buf, cursor := t.cursor, done := t.done, circ := t.circ, evh := false, evf := false,
                   calls := t.calls, answers := t.answers, draws := t.draws }

/-! The hardware-control interface, the engine, the colour source -/

/-- R141, R142, R143: `ACK` (`0x60`) clears both event flags, `ARM` (`0x61`) sets `CIRC`, `DISARM` (`0x62`) clears it; each
answers a next state from every state and writes nothing else (so `DISARM` does not stop the engine and `ARM` does not start
it). -/
def Obligations.AckArmDisarmWriteTheirBits : Prop :=
  ∀ s : State, exec .ack s = .next { s with evh := false, evf := false } ∧ exec .arm s = .next { s with circ := true } ∧
    exec .disarm s = .next { s with circ := false } ∧ encode s.cfg .ack = [0x60] ∧ encode s.cfg .arm = [0x61] ∧
    encode s.cfg .disarm = [0x62]

/-- R144: `SETLEN` of 0 or `C` on a halted engine answers a next state with `LEN` and `REM` the length; any other length raises
`BadOperand`; a legal length on a running engine, whose effect the rule says is not defined, is refused by name (log 11). -/
def Obligations.SetlenSetsLengthOfAHaltedEngine : Prop :=
  ∀ (s : State) (n : Nat),
    (n = 0 ∨ n = s.cfg.c → s.rem = 0 → exec (.setlen n) s = .next { s with len := n, rem := n }) ∧
    (n ≠ 0 → n ≠ s.cfg.c → s.fault = none →
      exec (.setlen n) s = .next { s with fault := some (.badOperand (.setlen n)) }) ∧
    (n = 0 ∨ n = s.cfg.c → 0 < s.rem → exec (.setlen n) s = .refused .setlenRunning)

/-- R146: `DRAIN`, code `0x70`, of a slot that holds a symbol answers a next state: the symbol is appended to `WIRE` and only
the engine's state is written; where the slot ends neither half nothing but `REM` counts down beside it; of a slot that holds no
value it raises `Uninitialised` and changes nothing else. -/
def Obligations.DrainStreamsOneSlot : Prop :=
  ∀ s : State, 0 < s.rem → s.rem ≤ s.cfg.c → encode s.cfg .drain = [0x70] ∧
    (∀ v, Memory.read s.buf (s.cfg.c - s.rem) = some v →
      (∃ t, exec .drain s = .next t ∧ t.wire = s.wire ++ [v] ∧
        t = { s with rem := t.rem, evh := t.evh, evf := t.evf, wire := t.wire, fault := t.fault }) ∧
      (s.rem ≠ 1 → s.rem - 1 ≠ s.cfg.c - s.cfg.h →
        exec .drain s = .next { s with wire := s.wire ++ [v], rem := s.rem - 1 })) ∧
    (Memory.read s.buf (s.cfg.c - s.rem) = none → s.fault = none →
      exec .drain s = .next { s with fault := some (.uninitialised (.slot (s.cfg.c - s.rem))) })

/-- R147: the `DRAIN` that consumes slot `H - 1`, with no event pending, answers a next state with `EVH` set after the symbol is
emitted. -/
def Obligations.DrainOfSlotBeforeHalfFiresHalfEvent : Prop :=
  ∀ (s : State) (v : Symbol), s.cfg.c = 2 * s.cfg.h → 1 ≤ s.cfg.h → s.cfg.c - s.rem = s.cfg.h - 1 → s.rem ≤ s.cfg.c →
    s.evh = false → s.evf = false → Memory.read s.buf (s.cfg.h - 1) = some v →
    exec .drain s = .next { s with wire := s.wire ++ [v], rem := s.cfg.h, evh := true }

/-- R148: the `DRAIN` that consumes slot `C - 1`, with no event pending, answers a next state with `EVF` set; with `CIRC = 1`
the engine wraps, `REM = C`, with `CIRC = 0` it halts, `REM = 0`. -/
def Obligations.DrainOfLastSlotWrapsOrHalts : Prop :=
  ∀ (s : State) (v : Symbol), s.cfg.c = 2 * s.cfg.h → 1 ≤ s.cfg.h → s.rem = 1 → s.evh = false → s.evf = false →
    Memory.read s.buf (s.cfg.c - 1) = some v →
    exec .drain s = .next { s with wire := s.wire ++ [v], rem := if s.circ then s.cfg.c else 0, evf := true }

/-- R150: a `DRAIN` about to set a flag while a flag is pending has emitted its symbol and counted `REM` down, and raises
`Underrun` with the event about to fire and the flags found. -/
def Obligations.DrainUnderrunsOnAPendingEvent : Prop :=
  ∀ (s : State) (v : Symbol), s.cfg.c = 2 * s.cfg.h → 1 ≤ s.cfg.h → 0 < s.rem → s.rem ≤ s.cfg.c → s.fault = none →
    (s.evh = true ∨ s.evf = true) → Memory.read s.buf (s.cfg.c - s.rem) = some v →
    ∃ found : EvFlags, found.toNat = (if s.evf then 2 else 0) + (if s.evh then 1 else 0) ∧
      (s.rem - 1 = s.cfg.c - s.cfg.h → exec .drain s =
        .next { s with wire := s.wire ++ [v], rem := s.rem - 1, fault := some (.underrun .half found) }) ∧
      (s.rem = 1 → exec .drain s =
        .next { s with wire := s.wire ++ [v], rem := 0, fault := some (.underrun .full found) })

/-- An engine with `REM = 0` takes no step (R145, R149): `DRAIN` is not enabled, and as a unit operation the model refuses it by
name (log 6). -/
def Obligations.HaltedEngineTakesNoStep : Prop :=
  ∀ s : State, s.rem = 0 → enabled .drain s = false ∧ exec .drain s = .refused (.notEnabled .drain)

/-- R152, R154: `GETCOLOR i`, code `0x80`, answers a next state from every state: the call is recorded, and the colour returned
is bits 23:0 of the source's answer; when the environment has listed none, some colour (a free value, log 10). -/
def Obligations.GetcolorRecordsTheCall : Prop :=
  (∀ (s : State) (i : Int) (a : Nat) (as : List Nat), s.answers = a :: as → exec (.getcolor i) s =
    .next { s with calls := s.calls ++ [i], answers := as, draws := s.draws + 1,
                   result := some (.colour (BitVec.ofNat 24 a)) }) ∧
  (∀ (s : State) (i : Int), (encode s.cfg (.getcolor i)).head? = some 0x80) ∧
  (∀ (s : State) (i : Int), s.answers = [] → ∃ c : Colour, exec (.getcolor i) s =
    .next { s with calls := s.calls ++ [i], draws := s.draws + 1, result := some (.colour c) })

/-- R151: the line carries `W` levels for each symbol shifted out, in order and with no gap: clock `k` of the run shows bit `W -
1 - k mod W` of symbol `k / W`. The most-significant-first order is PRESUMED, as R151 marks it (log 14). -/
def Obligations.LineCarriesTheSymbolsBitByBit : Prop :=
  ∀ (s : State) (k : Nat), s.lineLevels[k]? =
    (s.wire[k / s.cfg.w]?).bind fun v => if 0 < s.cfg.w then some (v.testBit (s.cfg.w - 1 - k % s.cfg.w)) else none

/-! Reset -/

/-- The value R38 lists for every piece of the spec's state after reset, under every configuration; after an `INIT` of that
state; and what "no value" means: a step that would read such a register or slot raises `Uninitialised`. That a `FILL` of this
state names `CURSOR`, where both registers hold no value, is the model's choice (log 3). -/
def Obligations.ResetLeavesTheListedValues : Prop :=
  ∀ cfg : Config,
    ((State.resetWith cfg).cfg = cfg ∧ (∀ i, Memory.read (State.resetWith cfg).buf i = none) ∧
      (State.resetWith cfg).cursor = none ∧ (State.resetWith cfg).ledCount = none ∧ (State.resetWith cfg).done = true ∧
      (State.resetWith cfg).circ = false ∧ (State.resetWith cfg).len = 0 ∧ (State.resetWith cfg).rem = 0 ∧
      (State.resetWith cfg).evh = false ∧ (State.resetWith cfg).evf = false ∧ (State.resetWith cfg).irqen = false ∧
      (State.resetWith cfg).inited = false ∧ (State.resetWith cfg).wire = [] ∧ (State.resetWith cfg).calls = [] ∧
      (State.resetWith cfg).fault = none) ∧
    exec .init (State.resetWith cfg) = .next { State.resetWith cfg with irqen := true, inited := true } ∧
    (∀ start count closing, start + count ≤ cfg.c → exec (.fill start count closing) (State.resetWith cfg) =
      .next { State.resetWith cfg with fault := some (.uninitialised .cursor) }) ∧
    (∀ r, 0 < r → r ≤ cfg.c → exec .drain { State.resetWith cfg with rem := r } =
      .next { State.resetWith cfg with rem := r, fault := some (.uninitialised (.slot (cfg.c - r))) })

/-- Reset meets the invariants of every step and of a run, under every well-formed configuration; and the configuration after
reset is well formed (its values are log 1 and log 2). -/
def Obligations.ResetMeetsTheInvariants : Prop :=
  (∀ cfg : Config, cfg.firstFailing = none → (State.resetWith cfg).Wf ∧ (State.resetWith cfg).RunInv) ∧
  State.reset.Wf ∧ State.reset.RunInv

/-! What every step keeps -/

/-- R26 ("no operation writes it"): no step changes the configuration, of which `SYM` is a field. -/
def Obligations.StepKeepsTheConfiguration : Prop :=
  ∀ s t : State, step s = .next t → t.cfg = s.cfg

/-- Every step, of a unit operation too, keeps the state's shape: the buffer sorted and inside the address space, every symbol
`W` bits wide, `LEN` and `REM` in range, `INITED = IRQEN` (R32), never both flags pending (R30, R150). -/
def Obligations.StepKeepsTheStateWellFormed : Prop :=
  ∀ s t : State, s.Wf → step s = .next t → t.Wf

/-- A scheduled step keeps the invariant of a run, or raises a fault that stands for a broken precondition or a breach of the
real-time premise: `SegmentOverrun`, `BadOperand` and `Uninitialised` are unreachable (R38, R100). -/
def Obligations.RunStepKeepsTheRunInvariant : Prop :=
  ∀ s t : State, s.RunInv → step s = .next t →
    (t.fault = none → t.RunInv) ∧ ∀ f, t.fault = some f → f.isPremiseBreach = true

/-- The real-time premise of R9 is what keeps a run from an underrun: in a run, a `DRAIN` raises no fault exactly when no event
is pending at a slot that fires one (R150). -/
def Obligations.RealTimePremiseIsTheAbsenceOfUnderrun : Prop :=
  ∀ (s t : State), s.RunInv → agentStep .drain s = .next t → (t.fault = none ↔ s.realTimeOk)

/-- R23: between one `START` and the next the cursor never decreases and the LED count stays, in every step of a run but a
`START`. -/
def Obligations.CursorNeverDecreasesWithinAFrame : Prop :=
  ∀ (s t : State) (i : Instr) (c n : Int), s.RunInv → s.cursor = some c → s.ledCount = some n →
    (∀ m, i ≠ .start m) → agentStep i s = .next t →
    ∃ c', t.cursor = some c' ∧ c ≤ c' ∧ t.ledCount = some n

/-- R37's matrix of who may write what, for every step, faulting or not: the engine writes `REM`, sets `EVH`, `EVF`, and appends
to `WIRE`; the handler writes `BUF`, `CURSOR`, `DONE` to 1, `CIRC` to 0, clears the flags, and appends to `CALLS`; `POLL` writes
nothing of R20; `INIT` writes `DONE`, `IRQEN`, `INITED` to 1 only, the flags to 0 only, the length to 0 only; `START` writes
`DONE` to 0 only, `CIRC` to 1 only, the length to `C` only, and the registers, buffer and traces of the frame. (`result`,
`answers` and `draws` are the model's own, logs 9 and 10.) -/
def Obligations.EachAgentWritesOnlyItsOwnState : Prop :=
  (∀ s t : State, exec .drain s = .next t →
    t = { s with rem := t.rem, evh := t.evh, evf := t.evf, wire := t.wire, fault := t.fault } ∧
    (s.evh = true → t.evh = true) ∧ (s.evf = true → t.evf = true) ∧ s.wire <+: t.wire) ∧
  (∀ (s t : State) (f : EvFlags), exec (.service f) s = .next t →
    t = { s with buf := t.buf, cursor := t.cursor, done := t.done, circ := t.circ, evh := false, evf := false,
                 calls := t.calls, answers := t.answers, draws := t.draws, fault := t.fault } ∧
    (s.done = true → t.done = true) ∧ (t.circ = true → s.circ = true) ∧ s.calls <+: t.calls) ∧
  (∀ s t : State, exec .poll s = .next t → t = { s with result := t.result }) ∧
  (∀ s t : State, exec .init s = .next t →
    t = { s with done := t.done, len := t.len, rem := t.rem, evh := t.evh, evf := t.evf, irqen := t.irqen,
                 inited := t.inited, fault := t.fault } ∧
    (s.done = true → t.done = true) ∧ (s.irqen = true → t.irqen = true) ∧ (s.inited = true → t.inited = true) ∧
    (t.evh = true → s.evh = true) ∧ (t.evf = true → s.evf = true) ∧ (t.len = s.len ∨ t.len = 0) ∧
    (t.rem = s.rem ∨ t.rem = 0)) ∧
  (∀ (s t : State) (n : Int), exec (.start n) s = .next t →
    t = { s with buf := t.buf, cursor := t.cursor, ledCount := t.ledCount, done := t.done, circ := t.circ, len := t.len,
                 rem := t.rem, wire := t.wire, calls := t.calls, answers := t.answers, draws := t.draws,
                 fault := t.fault } ∧
    (t.done = true → s.done = true) ∧ (s.circ = true → t.circ = true) ∧ (t.len = s.len ∨ t.len = s.cfg.c) ∧
    (t.rem = s.rem ∨ t.rem = s.cfg.c))

/-- R135 (with R49): in a run, with an event pending, a `SERVICE` and a `DRAIN` that fires no event give the same state in
either order: the handler's writes and the engine's read touch different halves. -/
def Obligations.ServiceAndDrainCommute : Prop :=
  ∀ (s : State) (f : EvFlags), s.RunInv → s.pending = true → 0 < s.rem → ¬ s.drainFires →
    ∃ a b t, exec (.service f) s = .next a ∧ exec .drain a = .next t ∧
      exec .drain s = .next b ∧ exec (.service f) b = .next t

/-! The frame on the wire -/

/-- R103: a `START` that raises no fault begins the logical stream of the colours the source will give. -/
def Obligations.StartBeginsTheStream : Prop :=
  ∀ (s t : State) (n : Nat), s.RunInv → s.cfg.closingHalf = .second → agentStep (.start n) s = .next t → t.fault = none →
    t.Streams s.nextColour n

/-- R103, R104 for every schedule: every other step of any agent that raises no fault keeps the frame the logical stream of the
same colours: what has been shifted out, what stands in the buffer, the cursor, the calls, and where the frame closes. -/
def Obligations.EveryScheduleKeepsTheStream : Prop :=
  ∀ (s t : State) (f : Nat → Colour) (n : Nat) (i : Instr), s.Streams f n → s.cfg.closingHalf = .second →
    (∀ m, i ≠ .start m) → agentStep i s = .next t → t.fault = none → t.Streams f n

/-- R189, R200: when a frame is over, `WIRE` is the first `(k* + 1) * C` symbols of the logical stream, `CALLS` is `[0, ...,
LEDCOUNT - 1]`, the cursor is at the terminal value, circular mode is off, every slot holds the zero symbol. -/
def Obligations.FrameOverMeansTheWholeStreamWasSent : Prop :=
  ∀ (s : State) (f : Nat → Colour) (n : Nat), s.Streams f n → s.frameOver →
    s.wire = (List.range ((closingLap s.cfg n + 1) * s.cfg.c)).map (streamSymbol s.cfg f n) ∧
    s.calls = (List.range n).map Int.ofNat ∧ s.cursor = some ((n : Int) + 1) ∧ s.circ = false ∧
    ∀ i, i < s.cfg.c → Memory.read s.buf i = some 0

/-- The eager schedule runs every frame to its end: from a state of a run in which a `START n` is accepted and no event is
pending, `FRAME n` ends, within the `(k* + 1) * C` `DRAIN`s and `2 * (k* + 1)` `SERVICE`s of R200 and R166, with nothing left to
do, the frame over, and the whole logical stream of the colours sent. -/
def Obligations.EveryFrameRunsToItsEnd : Prop :=
  ∀ (s : State) (n : Nat), s.RunInv → s.cfg.closingHalf = .second → 1 ≤ s.cfg.cw → s.inited = true → s.done = true →
    s.rem = 0 → s.pending = false → (n : Int) ≤ 2 ^ (s.cfg.cw - 1) - 2 →
    ∃ t, runFrame n ((closingLap s.cfg n + 1) * (s.cfg.c + 2)) s = .next t ∧ eagerChoice t = none ∧ t.frameOver ∧
      t.wire = (List.range ((closingLap s.cfg n + 1) * s.cfg.c)).map (streamSymbol s.cfg s.nextColour n) ∧
      t.calls = (List.range n).map Int.ofNat

/-- `WAITDONE` after an accepted `START n` ends at the closing event: under the eager schedule `POLL` returns bit 0 = 1 for the
first time when exactly `k* * C` symbols have been streamed (R104), with the engine at the start of its last lap (R115's
`0b01`). That the loop ends with the `POLL` that returned it, and tests it before the first body, is the model's choice
(log 18). -/
def Obligations.WaitDoneEndsAtTheClosingEvent : Prop :=
  ∀ (s : State) (n : Nat), s.RunInv → s.cfg.closingHalf = .second → 1 ≤ s.cfg.cw → s.inited = true → s.done = true →
    s.rem = 0 → s.pending = false → (n : Int) ≤ 2 ^ (s.cfg.cw - 1) - 2 →
    ∃ u t, agentStep (.start n) s = .next u ∧ waitDone (closingLap s.cfg n * (s.cfg.c + 2)) u = .next t ∧ t.fault = none ∧
      t.wire.length = closingLap s.cfg n * s.cfg.c ∧ t.rem = s.cfg.c ∧ t.circ = false ∧
      t.result = some (.status 0b01)

/-- `WAITIDLE` after an accepted `START n` ends with the frame over, every event served, and a host step enabled again: the
state in which the next `START` is accepted (R189). That the loop ends with the `POLL` that returned `0b11` is the model's
choice (log 18). -/
def Obligations.WaitIdleEndsWithTheFrameOver : Prop :=
  ∀ (s : State) (n : Nat), s.RunInv → s.cfg.closingHalf = .second → 1 ≤ s.cfg.cw → s.inited = true → s.done = true →
    s.rem = 0 → s.pending = false → (n : Int) ≤ 2 ^ (s.cfg.cw - 1) - 2 →
    ∃ u t, agentStep (.start n) s = .next u ∧ waitIdle ((closingLap s.cfg n + 1) * (s.cfg.c + 2)) u = .next t ∧
      t.frameOver ∧ t.result = some (.status 0b11) ∧ startFault n t = none ∧ ∀ m, enabled (.start m) t = true
end

