-- ==== Sys2Proof/Laws/Config.lean ====
section
/-! SUPPORT. What a well-formed configuration gives (spec/00_scope.md R7, R8), and the encoder under it. -/

namespace Sys2Proof

/-- The checks CFG1 to CFG6 as facts. -/
structure Config.Ok (cfg : Config) : Prop where
  halves : cfg.c = 2 * cfg.h
  halfPos : 1 ≤ cfg.h
  halfGroups : cfg.h % 6 = 0
  preNonneg : 0 ≤ cfg.r
  preGroups : cfg.r % 3 = 0
  tableLength : cfg.sym.length = 16
  tableWidth : ∀ x ∈ cfg.sym, x < 2 ^ cfg.w
  tableNodup : cfg.sym.Nodup
  widthPos : 1 ≤ cfg.w
  sizing : (cfg.h : Int) ≤ 2 * cfg.r

theorem Config.ok_iff (cfg : Config) : cfg.firstFailing = none ↔ cfg.Ok := by
  simp only [Config.firstFailing, List.find?_eq_none, List.mem_cons, List.not_mem_nil, or_false,
    Bool.not_eq_true, Bool.not_eq_false', forall_eq_or_imp, forall_eq, Config.passes, Bool.and_eq_true,
    decide_eq_true_eq, List.all_eq_true]
  constructor
  · rintro ⟨⟨h1, h2⟩, h3, ⟨h4, h5⟩, ⟨⟨h6, h7⟩, h8⟩, h9, h10⟩
    exact ⟨h1, h2, h3, h4, h5, h6, h7, h8, h9, h10⟩
  · rintro ⟨h1, h2, h3, h4, h5, h6, h7, h8, h9, h10⟩
    exact ⟨⟨h1, h2⟩, h3, ⟨h4, h5⟩, ⟨⟨h6, h7⟩, h8⟩, h9, h10⟩

theorem Config.ok_of {cfg : Config} (h : cfg.firstFailing = none) : cfg.Ok := cfg.ok_iff.1 h

/-- The preamble length is a natural number. -/
theorem Config.Ok.toNat_r {cfg : Config} (h : cfg.Ok) : (cfg.r.toNat : Int) = cfg.r := Int.toNat_of_nonneg h.preNonneg

namespace Machine

/-- Every encoder output is listed in the table. -/
theorem encodeNibble_getElem {cfg : Config} (h : cfg.sym.length = 16) (n : Nibble) :
    cfg.sym[n.toNat]? = some (encodeNibble cfg n) := by
  have : n.toNat < cfg.sym.length := by have := n.isLt; omega
  simp [encodeNibble, List.getD, this]

theorem encodeNibble_lt {cfg : Config} (h : cfg.Ok) (n : Nibble) : encodeNibble cfg n < 2 ^ cfg.w :=
  h.tableWidth _ (List.mem_of_getElem? (encodeNibble_getElem h.tableLength n))

@[simp] theorem encodeColour_length (cfg : Config) (c : Colour) : (encodeColour cfg c).length = 6 := by
  simp [encodeColour, Colour.nibbles, ledSyms]

theorem encodeColour_getElem (cfg : Config) (c : Colour) {k : Nat} (h : k < 6) :
    (encodeColour cfg c)[k]? = some (encodeNibble cfg (c.nibble k)) := by
  simp [encodeColour, Colour.nibbles, ledSyms, h]

theorem encodeColour_lt {cfg : Config} (h : cfg.Ok) (c : Colour) : ∀ v ∈ encodeColour cfg c, v < 2 ^ cfg.w := by
  intro v hv
  obtain ⟨n, -, rfl⟩ := List.mem_map.1 hv
  exact encodeNibble_lt h n

end Machine

end Sys2Proof
end

