-- ==== Sys2Proof/Laws/Decode.lean ====
section
/-! SUPPORT. Operand bytes read back as they were put, and what the code map selects. -/

namespace Sys2Proof

theorem takeBytes_putBytes (n v acc : Nat) (rest : List Byte) :
    takeBytes n (putBytes n v ++ rest) acc = some (acc * 256 ^ n + v % 256 ^ n, rest) := by
  induction n generalizing acc with
  | zero => simp [putBytes, takeBytes, Nat.mod_one]
  | succ n ih =>
    simp only [putBytes, List.cons_append, takeBytes, ih, BitVec.toNat_ofNat]
    have h : v % 256 ^ (n + 1) = v % 256 ^ n + 256 ^ n * (v / 256 ^ n % 256) := Nat.mod_pow_succ
    rw [h, pow_succ]
    norm_num
    ring

theorem takeUnsigned_putBytes {n v : Nat} (opc : Byte) (rest : List Byte) (h : v < 256 ^ n) :
    takeUnsigned opc n (putBytes n v ++ rest) = .ok (v, rest) := by
  simp [takeUnsigned, takeBytes_putBytes, Nat.mod_eq_of_lt h]

theorem ofInt_toInt_of_fits {cw : Nat} {v : Int} (h : fitsSigned cw v) :
    (BitVec.ofNat cw (BitVec.ofInt cw v).toNat).toInt = v := by
  rw [BitVec.ofNat_toNat, BitVec.setWidth_eq, BitVec.toInt_ofInt]
  obtain ⟨h1, h2⟩ := h
  have hp : ((2 ^ cw : Nat) : Int) = (2 : Int) ^ cw := by push_cast; rfl
  rcases cw with _ | cw
  · simp at h1 h2; have : v = 0 := by omega
    subst this; rfl
  · have e : ((2 ^ (cw + 1) : Nat) : Int) = 2 * 2 ^ cw := by push_cast; ring
    rw [pow_succ] at h1 h2
    rw [Int.bmod_def, e]
    have hpos : (0 : Int) < 2 ^ cw := by positivity
    generalize (2 : Int) ^ cw = q at *
    rcases le_or_gt 0 v with hv | hv
    · rw [Int.emod_eq_of_lt hv (by omega)]; split_ifs <;> omega
    · have : v % (2 * q) = v + 2 * q := by
        rw [← Int.add_emod_right]; exact Int.emod_eq_of_lt (by omega) (by omega)
      rw [this]; split_ifs <;> omega

theorem takeSigned_putSigned (cfg : Config) {v : Int} (opc : Byte) (rest : List Byte) (h : fitsSigned cfg.cw v) :
    takeSigned cfg opc (putSigned cfg v ++ rest) = .ok (v, rest) := by
  have hlt := (BitVec.ofInt cfg.cw v).isLt
  have hle : 2 ^ cfg.cw ≤ 256 ^ cfg.cwBytes := by
    rw [show (256 : Nat) = 2 ^ 8 from rfl, ← pow_mul]
    exact Nat.pow_le_pow_right (by norm_num) (by unfold Config.cwBytes; omega)
  simp only [takeSigned, putSigned, takeBytes_putBytes, zero_mul, zero_add,
    Nat.mod_eq_of_lt (lt_of_lt_of_le hlt hle), if_pos hlt, ofInt_toInt_of_fits h]

theorem selectOp_enc (n : Nibble) : selectOp (0x40 ||| n.setWidth 8) = some .enc := by revert n; decide

theorem selectOp_service (f : EvFlags) : selectOp (0x20 ||| f.setWidth 8) = some .service := by revert f; decide

theorem low_nibble_of_code (n : Nibble) : (0x40 ||| n.setWidth 8 : Byte).setWidth 4 = n := by revert n; decide

theorem flags_of_code (f : EvFlags) : (0x20 ||| f.setWidth 8 : Byte).setWidth 2 = f := by revert f; decide

end Sys2Proof
end

