-- ==== Sys2Proof/Laws/Memory.lean ====
section
/-! SUPPORT. The laws of the Output Buffer: read after write, other slots left alone, and the canonical form kept by every
memory operation. -/

namespace Sys2Proof.Machine

theorem Memory.read_write (m : Memory) (i : Nat) (v : Symbol) (j : Nat) :
    Memory.read (Memory.write m i v) j = if j = i then some v else Memory.read m j := by
  induction m with
  | nil => simp [Memory.write, Memory.read]
  | cons e m ih =>
    obtain ⟨a, u⟩ := e
    simp only [Memory.write]
    split_ifs with h1 h2 h3 h4 <;> simp_all [Memory.read]

theorem Memory.read_writeList (vs : List Symbol) (m : Memory) (p j : Nat) :
    Memory.read (Memory.writeList m p vs) j = if p ≤ j ∧ j < p + vs.length then vs[j - p]? else Memory.read m j := by
  induction vs generalizing m p with
  | nil =>
    have : ¬(p ≤ j ∧ j < p + ([] : List Symbol).length) := by simp
    rw [if_neg this]; rfl
  | cons v vs ih =>
    simp only [Memory.writeList, ih, Memory.read_write, List.length_cons]
    rcases lt_trichotomy j p with h | h | h
    · rw [if_neg (by omega), if_neg (by omega), if_neg (by omega)]
    · subst h; rw [if_neg (by omega), if_pos rfl, if_pos (by omega)]; simp
    · have e : j - p = (j - (p + 1)) + 1 := by omega
      by_cases hj : j < p + 1 + vs.length
      · rw [if_pos (by omega), if_pos (by omega), e]; simp
      · rw [if_neg (by omega), if_neg (by omega), if_neg (by omega)]

/-- A slot outside the written segment reads as before. -/
theorem Memory.read_writeList_outside {vs : List Symbol} {m : Memory} {p j : Nat} (h : j < p ∨ p + vs.length ≤ j) :
    Memory.read (Memory.writeList m p vs) j = Memory.read m j := by
  rw [Memory.read_writeList, if_neg (by omega)]

theorem Memory.writeList_append (vs ws : List Symbol) (m : Memory) (p : Nat) :
    Memory.writeList m p (vs ++ ws) = Memory.writeList (Memory.writeList m p vs) (p + vs.length) ws := by
  induction vs generalizing m p with
  | nil => rfl
  | cons v vs ih => simp only [List.cons_append, Memory.writeList, ih, List.length_cons]; congr 1; omega

theorem Memory.mem_write {m : Memory} {i : Nat} {v : Symbol} {e : Nat × Symbol} (h : e ∈ Memory.write m i v) :
    e = (i, v) ∨ e ∈ m := by
  induction m with
  | nil => simpa [Memory.write] using h
  | cons x m ih =>
    simp only [Memory.write] at h
    split_ifs at h with h1 h2
    · simpa using h
    · simp only [List.mem_cons] at h ⊢; tauto
    · simp only [List.mem_cons] at h ⊢; rcases h with h | h
      · tauto
      · rcases ih h with h | h <;> tauto

/-- A write keeps the canonical form. -/
theorem Memory.wf_write {m : Memory} (i : Nat) (v : Symbol) (h : Memory.wf m) : Memory.wf (Memory.write m i v) := by
  induction m with
  | nil => simp [Memory.write, Memory.wf]
  | cons x m ih =>
    obtain ⟨a, u⟩ := x
    have ⟨hx, hm⟩ := List.pairwise_cons.1 h
    simp only [Memory.write]
    split_ifs with h1 h2
    · refine List.pairwise_cons.2 ⟨fun e he => ?_, h⟩
      rcases List.mem_cons.1 he with rfl | he
      · exact h1
      · have := hx e he; simp at this ⊢; omega
    · subst h2; exact List.pairwise_cons.2 ⟨fun e he => hx e he, hm⟩
    · refine List.pairwise_cons.2 ⟨fun e he => ?_, ih hm⟩
      rcases Memory.mem_write he with rfl | he
      · simp; omega
      · exact hx e he

/-- `MemWrite` keeps the canonical form. -/
theorem Memory.wf_writeList (vs : List Symbol) {m : Memory} (p : Nat) (h : Memory.wf m) :
    Memory.wf (Memory.writeList m p vs) := by
  induction vs generalizing m p with
  | nil => exact h
  | cons v vs ih => exact ih _ (Memory.wf_write p v h)

/-- What `MemWrite` leaves listed was listed before or is one of the written symbols in its slot. -/
theorem Memory.mem_writeList {vs : List Symbol} {m : Memory} {p : Nat} {e : Nat × Symbol}
    (h : e ∈ Memory.writeList m p vs) : e ∈ m ∨ (p ≤ e.1 ∧ e.1 < p + vs.length ∧ e.2 ∈ vs) := by
  induction vs generalizing m p with
  | nil => exact .inl h
  | cons v vs ih =>
    rcases ih h with h | ⟨h1, h2, h3⟩
    · rcases Memory.mem_write h with rfl | h
      · right; simp
      · exact .inl h
    · right; simp only [List.length_cons, List.mem_cons]; exact ⟨by omega, by omega, .inr h3⟩

/-- What a slot reads as is listed. -/
theorem Memory.mem_of_read {m : Memory} {i : Nat} {v : Symbol} (h : Memory.read m i = some v) : (i, v) ∈ m := by
  induction m with
  | nil => simp [Memory.read] at h
  | cons e m ih =>
    obtain ⟨a, u⟩ := e
    simp only [Memory.read] at h
    split_ifs at h with hi
    · simp_all
    · exact List.mem_cons_of_mem _ (ih h)

end Sys2Proof.Machine
end

