-- ==== Sys2Proof/Laws/State.lean ====
section
/-! SUPPORT. One lemma per field of State per update, true by `rfl`, so that no proof unfolds a record update. -/

namespace Sys2Proof.Machine

variable (s : State)

/-! `State.memWrite` -/

@[simp] theorem State.memWrite_cfg (p : Nat) (vs : List Symbol) : (s.memWrite p vs).cfg = s.cfg := rfl
@[simp] theorem State.memWrite_buf (p : Nat) (vs : List Symbol) : (s.memWrite p vs).buf = Memory.writeList s.buf p vs := rfl
@[simp] theorem State.memWrite_cursor (p : Nat) (vs : List Symbol) : (s.memWrite p vs).cursor = s.cursor := rfl
@[simp] theorem State.memWrite_ledCount (p : Nat) (vs : List Symbol) : (s.memWrite p vs).ledCount = s.ledCount := rfl
@[simp] theorem State.memWrite_done (p : Nat) (vs : List Symbol) : (s.memWrite p vs).done = s.done := rfl
@[simp] theorem State.memWrite_circ (p : Nat) (vs : List Symbol) : (s.memWrite p vs).circ = s.circ := rfl
@[simp] theorem State.memWrite_len (p : Nat) (vs : List Symbol) : (s.memWrite p vs).len = s.len := rfl
@[simp] theorem State.memWrite_rem (p : Nat) (vs : List Symbol) : (s.memWrite p vs).rem = s.rem := rfl
@[simp] theorem State.memWrite_evh (p : Nat) (vs : List Symbol) : (s.memWrite p vs).evh = s.evh := rfl
@[simp] theorem State.memWrite_evf (p : Nat) (vs : List Symbol) : (s.memWrite p vs).evf = s.evf := rfl
@[simp] theorem State.memWrite_irqen (p : Nat) (vs : List Symbol) : (s.memWrite p vs).irqen = s.irqen := rfl
@[simp] theorem State.memWrite_inited (p : Nat) (vs : List Symbol) : (s.memWrite p vs).inited = s.inited := rfl
@[simp] theorem State.memWrite_wire (p : Nat) (vs : List Symbol) : (s.memWrite p vs).wire = s.wire := rfl
@[simp] theorem State.memWrite_calls (p : Nat) (vs : List Symbol) : (s.memWrite p vs).calls = s.calls := rfl
@[simp] theorem State.memWrite_fault (p : Nat) (vs : List Symbol) : (s.memWrite p vs).fault = s.fault := rfl
@[simp] theorem State.memWrite_result (p : Nat) (vs : List Symbol) : (s.memWrite p vs).result = s.result := rfl
@[simp] theorem State.memWrite_trace (p : Nat) (vs : List Symbol) : (s.memWrite p vs).trace = s.trace := rfl
@[simp] theorem State.memWrite_bench (p : Nat) (vs : List Symbol) : (s.memWrite p vs).bench = s.bench := rfl
@[simp] theorem State.memWrite_answers (p : Nat) (vs : List Symbol) : (s.memWrite p vs).answers = s.answers := rfl
@[simp] theorem State.memWrite_draws (p : Nat) (vs : List Symbol) : (s.memWrite p vs).draws = s.draws := rfl

/-! `State.setCursor` -/

@[simp] theorem State.setCursor_cfg (c : Int) : (s.setCursor c).cfg = s.cfg := rfl
@[simp] theorem State.setCursor_buf (c : Int) : (s.setCursor c).buf = s.buf := rfl
@[simp] theorem State.setCursor_cursor (c : Int) : (s.setCursor c).cursor = some c := rfl
@[simp] theorem State.setCursor_ledCount (c : Int) : (s.setCursor c).ledCount = s.ledCount := rfl
@[simp] theorem State.setCursor_done (c : Int) : (s.setCursor c).done = s.done := rfl
@[simp] theorem State.setCursor_circ (c : Int) : (s.setCursor c).circ = s.circ := rfl
@[simp] theorem State.setCursor_len (c : Int) : (s.setCursor c).len = s.len := rfl
@[simp] theorem State.setCursor_rem (c : Int) : (s.setCursor c).rem = s.rem := rfl
@[simp] theorem State.setCursor_evh (c : Int) : (s.setCursor c).evh = s.evh := rfl
@[simp] theorem State.setCursor_evf (c : Int) : (s.setCursor c).evf = s.evf := rfl
@[simp] theorem State.setCursor_irqen (c : Int) : (s.setCursor c).irqen = s.irqen := rfl
@[simp] theorem State.setCursor_inited (c : Int) : (s.setCursor c).inited = s.inited := rfl
@[simp] theorem State.setCursor_wire (c : Int) : (s.setCursor c).wire = s.wire := rfl
@[simp] theorem State.setCursor_calls (c : Int) : (s.setCursor c).calls = s.calls := rfl
@[simp] theorem State.setCursor_fault (c : Int) : (s.setCursor c).fault = s.fault := rfl
@[simp] theorem State.setCursor_result (c : Int) : (s.setCursor c).result = s.result := rfl
@[simp] theorem State.setCursor_trace (c : Int) : (s.setCursor c).trace = s.trace := rfl
@[simp] theorem State.setCursor_bench (c : Int) : (s.setCursor c).bench = s.bench := rfl
@[simp] theorem State.setCursor_answers (c : Int) : (s.setCursor c).answers = s.answers := rfl
@[simp] theorem State.setCursor_draws (c : Int) : (s.setCursor c).draws = s.draws := rfl

/-! `State.setDone` -/

@[simp] theorem State.setDone_cfg (b : Bool) : (s.setDone b).cfg = s.cfg := rfl
@[simp] theorem State.setDone_buf (b : Bool) : (s.setDone b).buf = s.buf := rfl
@[simp] theorem State.setDone_cursor (b : Bool) : (s.setDone b).cursor = s.cursor := rfl
@[simp] theorem State.setDone_ledCount (b : Bool) : (s.setDone b).ledCount = s.ledCount := rfl
@[simp] theorem State.setDone_done (b : Bool) : (s.setDone b).done = b := rfl
@[simp] theorem State.setDone_circ (b : Bool) : (s.setDone b).circ = s.circ := rfl
@[simp] theorem State.setDone_len (b : Bool) : (s.setDone b).len = s.len := rfl
@[simp] theorem State.setDone_rem (b : Bool) : (s.setDone b).rem = s.rem := rfl
@[simp] theorem State.setDone_evh (b : Bool) : (s.setDone b).evh = s.evh := rfl
@[simp] theorem State.setDone_evf (b : Bool) : (s.setDone b).evf = s.evf := rfl
@[simp] theorem State.setDone_irqen (b : Bool) : (s.setDone b).irqen = s.irqen := rfl
@[simp] theorem State.setDone_inited (b : Bool) : (s.setDone b).inited = s.inited := rfl
@[simp] theorem State.setDone_wire (b : Bool) : (s.setDone b).wire = s.wire := rfl
@[simp] theorem State.setDone_calls (b : Bool) : (s.setDone b).calls = s.calls := rfl
@[simp] theorem State.setDone_fault (b : Bool) : (s.setDone b).fault = s.fault := rfl
@[simp] theorem State.setDone_result (b : Bool) : (s.setDone b).result = s.result := rfl
@[simp] theorem State.setDone_trace (b : Bool) : (s.setDone b).trace = s.trace := rfl
@[simp] theorem State.setDone_bench (b : Bool) : (s.setDone b).bench = s.bench := rfl
@[simp] theorem State.setDone_answers (b : Bool) : (s.setDone b).answers = s.answers := rfl
@[simp] theorem State.setDone_draws (b : Bool) : (s.setDone b).draws = s.draws := rfl

/-! `State.setRem` -/

@[simp] theorem State.setRem_cfg (n : Nat) : (s.setRem n).cfg = s.cfg := rfl
@[simp] theorem State.setRem_buf (n : Nat) : (s.setRem n).buf = s.buf := rfl
@[simp] theorem State.setRem_cursor (n : Nat) : (s.setRem n).cursor = s.cursor := rfl
@[simp] theorem State.setRem_ledCount (n : Nat) : (s.setRem n).ledCount = s.ledCount := rfl
@[simp] theorem State.setRem_done (n : Nat) : (s.setRem n).done = s.done := rfl
@[simp] theorem State.setRem_circ (n : Nat) : (s.setRem n).circ = s.circ := rfl
@[simp] theorem State.setRem_len (n : Nat) : (s.setRem n).len = s.len := rfl
@[simp] theorem State.setRem_rem (n : Nat) : (s.setRem n).rem = n := rfl
@[simp] theorem State.setRem_evh (n : Nat) : (s.setRem n).evh = s.evh := rfl
@[simp] theorem State.setRem_evf (n : Nat) : (s.setRem n).evf = s.evf := rfl
@[simp] theorem State.setRem_irqen (n : Nat) : (s.setRem n).irqen = s.irqen := rfl
@[simp] theorem State.setRem_inited (n : Nat) : (s.setRem n).inited = s.inited := rfl
@[simp] theorem State.setRem_wire (n : Nat) : (s.setRem n).wire = s.wire := rfl
@[simp] theorem State.setRem_calls (n : Nat) : (s.setRem n).calls = s.calls := rfl
@[simp] theorem State.setRem_fault (n : Nat) : (s.setRem n).fault = s.fault := rfl
@[simp] theorem State.setRem_result (n : Nat) : (s.setRem n).result = s.result := rfl
@[simp] theorem State.setRem_trace (n : Nat) : (s.setRem n).trace = s.trace := rfl
@[simp] theorem State.setRem_bench (n : Nat) : (s.setRem n).bench = s.bench := rfl
@[simp] theorem State.setRem_answers (n : Nat) : (s.setRem n).answers = s.answers := rfl
@[simp] theorem State.setRem_draws (n : Nat) : (s.setRem n).draws = s.draws := rfl

/-! `State.emit` -/

@[simp] theorem State.emit_cfg (v : Symbol) : (s.emit v).cfg = s.cfg := rfl
@[simp] theorem State.emit_buf (v : Symbol) : (s.emit v).buf = s.buf := rfl
@[simp] theorem State.emit_cursor (v : Symbol) : (s.emit v).cursor = s.cursor := rfl
@[simp] theorem State.emit_ledCount (v : Symbol) : (s.emit v).ledCount = s.ledCount := rfl
@[simp] theorem State.emit_done (v : Symbol) : (s.emit v).done = s.done := rfl
@[simp] theorem State.emit_circ (v : Symbol) : (s.emit v).circ = s.circ := rfl
@[simp] theorem State.emit_len (v : Symbol) : (s.emit v).len = s.len := rfl
@[simp] theorem State.emit_rem (v : Symbol) : (s.emit v).rem = s.rem := rfl
@[simp] theorem State.emit_evh (v : Symbol) : (s.emit v).evh = s.evh := rfl
@[simp] theorem State.emit_evf (v : Symbol) : (s.emit v).evf = s.evf := rfl
@[simp] theorem State.emit_irqen (v : Symbol) : (s.emit v).irqen = s.irqen := rfl
@[simp] theorem State.emit_inited (v : Symbol) : (s.emit v).inited = s.inited := rfl
@[simp] theorem State.emit_wire (v : Symbol) : (s.emit v).wire = s.wire ++ [v] := rfl
@[simp] theorem State.emit_calls (v : Symbol) : (s.emit v).calls = s.calls := rfl
@[simp] theorem State.emit_fault (v : Symbol) : (s.emit v).fault = s.fault := rfl
@[simp] theorem State.emit_result (v : Symbol) : (s.emit v).result = s.result := rfl
@[simp] theorem State.emit_trace (v : Symbol) : (s.emit v).trace = s.trace := rfl
@[simp] theorem State.emit_bench (v : Symbol) : (s.emit v).bench = s.bench := rfl
@[simp] theorem State.emit_answers (v : Symbol) : (s.emit v).answers = s.answers := rfl
@[simp] theorem State.emit_draws (v : Symbol) : (s.emit v).draws = s.draws := rfl

/-! `State.setResult` -/

@[simp] theorem State.setResult_cfg (r : OpResult) : (s.setResult r).cfg = s.cfg := rfl
@[simp] theorem State.setResult_buf (r : OpResult) : (s.setResult r).buf = s.buf := rfl
@[simp] theorem State.setResult_cursor (r : OpResult) : (s.setResult r).cursor = s.cursor := rfl
@[simp] theorem State.setResult_ledCount (r : OpResult) : (s.setResult r).ledCount = s.ledCount := rfl
@[simp] theorem State.setResult_done (r : OpResult) : (s.setResult r).done = s.done := rfl
@[simp] theorem State.setResult_circ (r : OpResult) : (s.setResult r).circ = s.circ := rfl
@[simp] theorem State.setResult_len (r : OpResult) : (s.setResult r).len = s.len := rfl
@[simp] theorem State.setResult_rem (r : OpResult) : (s.setResult r).rem = s.rem := rfl
@[simp] theorem State.setResult_evh (r : OpResult) : (s.setResult r).evh = s.evh := rfl
@[simp] theorem State.setResult_evf (r : OpResult) : (s.setResult r).evf = s.evf := rfl
@[simp] theorem State.setResult_irqen (r : OpResult) : (s.setResult r).irqen = s.irqen := rfl
@[simp] theorem State.setResult_inited (r : OpResult) : (s.setResult r).inited = s.inited := rfl
@[simp] theorem State.setResult_wire (r : OpResult) : (s.setResult r).wire = s.wire := rfl
@[simp] theorem State.setResult_calls (r : OpResult) : (s.setResult r).calls = s.calls := rfl
@[simp] theorem State.setResult_fault (r : OpResult) : (s.setResult r).fault = s.fault := rfl
@[simp] theorem State.setResult_result (r : OpResult) : (s.setResult r).result = some r := rfl
@[simp] theorem State.setResult_trace (r : OpResult) : (s.setResult r).trace = s.trace := rfl
@[simp] theorem State.setResult_bench (r : OpResult) : (s.setResult r).bench = s.bench := rfl
@[simp] theorem State.setResult_answers (r : OpResult) : (s.setResult r).answers = s.answers := rfl
@[simp] theorem State.setResult_draws (r : OpResult) : (s.setResult r).draws = s.draws := rfl

/-! `State.ackEvents` -/

@[simp] theorem State.ackEvents_cfg : (s.ackEvents).cfg = s.cfg := rfl
@[simp] theorem State.ackEvents_buf : (s.ackEvents).buf = s.buf := rfl
@[simp] theorem State.ackEvents_cursor : (s.ackEvents).cursor = s.cursor := rfl
@[simp] theorem State.ackEvents_ledCount : (s.ackEvents).ledCount = s.ledCount := rfl
@[simp] theorem State.ackEvents_done : (s.ackEvents).done = s.done := rfl
@[simp] theorem State.ackEvents_circ : (s.ackEvents).circ = s.circ := rfl
@[simp] theorem State.ackEvents_len : (s.ackEvents).len = s.len := rfl
@[simp] theorem State.ackEvents_rem : (s.ackEvents).rem = s.rem := rfl
@[simp] theorem State.ackEvents_evh : (s.ackEvents).evh = false := rfl
@[simp] theorem State.ackEvents_evf : (s.ackEvents).evf = false := rfl
@[simp] theorem State.ackEvents_irqen : (s.ackEvents).irqen = s.irqen := rfl
@[simp] theorem State.ackEvents_inited : (s.ackEvents).inited = s.inited := rfl
@[simp] theorem State.ackEvents_wire : (s.ackEvents).wire = s.wire := rfl
@[simp] theorem State.ackEvents_calls : (s.ackEvents).calls = s.calls := rfl
@[simp] theorem State.ackEvents_fault : (s.ackEvents).fault = s.fault := rfl
@[simp] theorem State.ackEvents_result : (s.ackEvents).result = s.result := rfl
@[simp] theorem State.ackEvents_trace : (s.ackEvents).trace = s.trace := rfl
@[simp] theorem State.ackEvents_bench : (s.ackEvents).bench = s.bench := rfl
@[simp] theorem State.ackEvents_answers : (s.ackEvents).answers = s.answers := rfl
@[simp] theorem State.ackEvents_draws : (s.ackEvents).draws = s.draws := rfl

/-! `State.armCircular` -/

@[simp] theorem State.armCircular_cfg : (s.armCircular).cfg = s.cfg := rfl
@[simp] theorem State.armCircular_buf : (s.armCircular).buf = s.buf := rfl
@[simp] theorem State.armCircular_cursor : (s.armCircular).cursor = s.cursor := rfl
@[simp] theorem State.armCircular_ledCount : (s.armCircular).ledCount = s.ledCount := rfl
@[simp] theorem State.armCircular_done : (s.armCircular).done = s.done := rfl
@[simp] theorem State.armCircular_circ : (s.armCircular).circ = true := rfl
@[simp] theorem State.armCircular_len : (s.armCircular).len = s.len := rfl
@[simp] theorem State.armCircular_rem : (s.armCircular).rem = s.rem := rfl
@[simp] theorem State.armCircular_evh : (s.armCircular).evh = s.evh := rfl
@[simp] theorem State.armCircular_evf : (s.armCircular).evf = s.evf := rfl
@[simp] theorem State.armCircular_irqen : (s.armCircular).irqen = s.irqen := rfl
@[simp] theorem State.armCircular_inited : (s.armCircular).inited = s.inited := rfl
@[simp] theorem State.armCircular_wire : (s.armCircular).wire = s.wire := rfl
@[simp] theorem State.armCircular_calls : (s.armCircular).calls = s.calls := rfl
@[simp] theorem State.armCircular_fault : (s.armCircular).fault = s.fault := rfl
@[simp] theorem State.armCircular_result : (s.armCircular).result = s.result := rfl
@[simp] theorem State.armCircular_trace : (s.armCircular).trace = s.trace := rfl
@[simp] theorem State.armCircular_bench : (s.armCircular).bench = s.bench := rfl
@[simp] theorem State.armCircular_answers : (s.armCircular).answers = s.answers := rfl
@[simp] theorem State.armCircular_draws : (s.armCircular).draws = s.draws := rfl

/-! `State.disarmCircular` -/

@[simp] theorem State.disarmCircular_cfg : (s.disarmCircular).cfg = s.cfg := rfl
@[simp] theorem State.disarmCircular_buf : (s.disarmCircular).buf = s.buf := rfl
@[simp] theorem State.disarmCircular_cursor : (s.disarmCircular).cursor = s.cursor := rfl
@[simp] theorem State.disarmCircular_ledCount : (s.disarmCircular).ledCount = s.ledCount := rfl
@[simp] theorem State.disarmCircular_done : (s.disarmCircular).done = s.done := rfl
@[simp] theorem State.disarmCircular_circ : (s.disarmCircular).circ = false := rfl
@[simp] theorem State.disarmCircular_len : (s.disarmCircular).len = s.len := rfl
@[simp] theorem State.disarmCircular_rem : (s.disarmCircular).rem = s.rem := rfl
@[simp] theorem State.disarmCircular_evh : (s.disarmCircular).evh = s.evh := rfl
@[simp] theorem State.disarmCircular_evf : (s.disarmCircular).evf = s.evf := rfl
@[simp] theorem State.disarmCircular_irqen : (s.disarmCircular).irqen = s.irqen := rfl
@[simp] theorem State.disarmCircular_inited : (s.disarmCircular).inited = s.inited := rfl
@[simp] theorem State.disarmCircular_wire : (s.disarmCircular).wire = s.wire := rfl
@[simp] theorem State.disarmCircular_calls : (s.disarmCircular).calls = s.calls := rfl
@[simp] theorem State.disarmCircular_fault : (s.disarmCircular).fault = s.fault := rfl
@[simp] theorem State.disarmCircular_result : (s.disarmCircular).result = s.result := rfl
@[simp] theorem State.disarmCircular_trace : (s.disarmCircular).trace = s.trace := rfl
@[simp] theorem State.disarmCircular_bench : (s.disarmCircular).bench = s.bench := rfl
@[simp] theorem State.disarmCircular_answers : (s.disarmCircular).answers = s.answers := rfl
@[simp] theorem State.disarmCircular_draws : (s.disarmCircular).draws = s.draws := rfl

/-! `State.setLength` -/

@[simp] theorem State.setLength_cfg (n : Nat) : (s.setLength n).cfg = s.cfg := rfl
@[simp] theorem State.setLength_buf (n : Nat) : (s.setLength n).buf = s.buf := rfl
@[simp] theorem State.setLength_cursor (n : Nat) : (s.setLength n).cursor = s.cursor := rfl
@[simp] theorem State.setLength_ledCount (n : Nat) : (s.setLength n).ledCount = s.ledCount := rfl
@[simp] theorem State.setLength_done (n : Nat) : (s.setLength n).done = s.done := rfl
@[simp] theorem State.setLength_circ (n : Nat) : (s.setLength n).circ = s.circ := rfl
@[simp] theorem State.setLength_len (n : Nat) : (s.setLength n).len = n := rfl
@[simp] theorem State.setLength_rem (n : Nat) : (s.setLength n).rem = n := rfl
@[simp] theorem State.setLength_evh (n : Nat) : (s.setLength n).evh = s.evh := rfl
@[simp] theorem State.setLength_evf (n : Nat) : (s.setLength n).evf = s.evf := rfl
@[simp] theorem State.setLength_irqen (n : Nat) : (s.setLength n).irqen = s.irqen := rfl
@[simp] theorem State.setLength_inited (n : Nat) : (s.setLength n).inited = s.inited := rfl
@[simp] theorem State.setLength_wire (n : Nat) : (s.setLength n).wire = s.wire := rfl
@[simp] theorem State.setLength_calls (n : Nat) : (s.setLength n).calls = s.calls := rfl
@[simp] theorem State.setLength_fault (n : Nat) : (s.setLength n).fault = s.fault := rfl
@[simp] theorem State.setLength_result (n : Nat) : (s.setLength n).result = s.result := rfl
@[simp] theorem State.setLength_trace (n : Nat) : (s.setLength n).trace = s.trace := rfl
@[simp] theorem State.setLength_bench (n : Nat) : (s.setLength n).bench = s.bench := rfl
@[simp] theorem State.setLength_answers (n : Nat) : (s.setLength n).answers = s.answers := rfl
@[simp] theorem State.setLength_draws (n : Nat) : (s.setLength n).draws = s.draws := rfl

/-! `State.logCall` -/

@[simp] theorem State.logCall_cfg (i : Int) : (s.logCall i).cfg = s.cfg := rfl
@[simp] theorem State.logCall_buf (i : Int) : (s.logCall i).buf = s.buf := rfl
@[simp] theorem State.logCall_cursor (i : Int) : (s.logCall i).cursor = s.cursor := rfl
@[simp] theorem State.logCall_ledCount (i : Int) : (s.logCall i).ledCount = s.ledCount := rfl
@[simp] theorem State.logCall_done (i : Int) : (s.logCall i).done = s.done := rfl
@[simp] theorem State.logCall_circ (i : Int) : (s.logCall i).circ = s.circ := rfl
@[simp] theorem State.logCall_len (i : Int) : (s.logCall i).len = s.len := rfl
@[simp] theorem State.logCall_rem (i : Int) : (s.logCall i).rem = s.rem := rfl
@[simp] theorem State.logCall_evh (i : Int) : (s.logCall i).evh = s.evh := rfl
@[simp] theorem State.logCall_evf (i : Int) : (s.logCall i).evf = s.evf := rfl
@[simp] theorem State.logCall_irqen (i : Int) : (s.logCall i).irqen = s.irqen := rfl
@[simp] theorem State.logCall_inited (i : Int) : (s.logCall i).inited = s.inited := rfl
@[simp] theorem State.logCall_wire (i : Int) : (s.logCall i).wire = s.wire := rfl
@[simp] theorem State.logCall_calls (i : Int) : (s.logCall i).calls = s.calls ++ [i] := rfl
@[simp] theorem State.logCall_fault (i : Int) : (s.logCall i).fault = s.fault := rfl
@[simp] theorem State.logCall_result (i : Int) : (s.logCall i).result = s.result := rfl
@[simp] theorem State.logCall_trace (i : Int) : (s.logCall i).trace = s.trace := rfl
@[simp] theorem State.logCall_bench (i : Int) : (s.logCall i).bench = s.bench := rfl
@[simp] theorem State.logCall_answers (i : Int) : (s.logCall i).answers = s.answers.tail := rfl
@[simp] theorem State.logCall_draws (i : Int) : (s.logCall i).draws = s.draws + 1 := rfl

/-! `State.raise` -/

@[simp] theorem State.raise_cfg (f : Fault) : (s.raise f).cfg = s.cfg := rfl
@[simp] theorem State.raise_buf (f : Fault) : (s.raise f).buf = s.buf := rfl
@[simp] theorem State.raise_cursor (f : Fault) : (s.raise f).cursor = s.cursor := rfl
@[simp] theorem State.raise_ledCount (f : Fault) : (s.raise f).ledCount = s.ledCount := rfl
@[simp] theorem State.raise_done (f : Fault) : (s.raise f).done = s.done := rfl
@[simp] theorem State.raise_circ (f : Fault) : (s.raise f).circ = s.circ := rfl
@[simp] theorem State.raise_len (f : Fault) : (s.raise f).len = s.len := rfl
@[simp] theorem State.raise_rem (f : Fault) : (s.raise f).rem = s.rem := rfl
@[simp] theorem State.raise_evh (f : Fault) : (s.raise f).evh = s.evh := rfl
@[simp] theorem State.raise_evf (f : Fault) : (s.raise f).evf = s.evf := rfl
@[simp] theorem State.raise_irqen (f : Fault) : (s.raise f).irqen = s.irqen := rfl
@[simp] theorem State.raise_inited (f : Fault) : (s.raise f).inited = s.inited := rfl
@[simp] theorem State.raise_wire (f : Fault) : (s.raise f).wire = s.wire := rfl
@[simp] theorem State.raise_calls (f : Fault) : (s.raise f).calls = s.calls := rfl
@[simp] theorem State.raise_fault (f : Fault) : (s.raise f).fault = s.fault.or (some f) := rfl
@[simp] theorem State.raise_result (f : Fault) : (s.raise f).result = s.result := rfl
@[simp] theorem State.raise_trace (f : Fault) : (s.raise f).trace = s.trace := rfl
@[simp] theorem State.raise_bench (f : Fault) : (s.raise f).bench = s.bench := rfl
@[simp] theorem State.raise_answers (f : Fault) : (s.raise f).answers = s.answers := rfl
@[simp] theorem State.raise_draws (f : Fault) : (s.raise f).draws = s.draws := rfl

/-! `State.interruptEntry` -/

@[simp] theorem State.interruptEntry_cfg : (s.interruptEntry).cfg = s.cfg := rfl
@[simp] theorem State.interruptEntry_buf : (s.interruptEntry).buf = s.buf := rfl
@[simp] theorem State.interruptEntry_cursor : (s.interruptEntry).cursor = s.cursor := rfl
@[simp] theorem State.interruptEntry_ledCount : (s.interruptEntry).ledCount = s.ledCount := rfl
@[simp] theorem State.interruptEntry_done : (s.interruptEntry).done = s.done := rfl
@[simp] theorem State.interruptEntry_circ : (s.interruptEntry).circ = s.circ := rfl
@[simp] theorem State.interruptEntry_len : (s.interruptEntry).len = s.len := rfl
@[simp] theorem State.interruptEntry_rem : (s.interruptEntry).rem = s.rem := rfl
@[simp] theorem State.interruptEntry_evh : (s.interruptEntry).evh = s.evh := rfl
@[simp] theorem State.interruptEntry_evf : (s.interruptEntry).evf = s.evf := rfl
@[simp] theorem State.interruptEntry_irqen : (s.interruptEntry).irqen = s.irqen := rfl
@[simp] theorem State.interruptEntry_inited : (s.interruptEntry).inited = s.inited := rfl
@[simp] theorem State.interruptEntry_wire : (s.interruptEntry).wire = s.wire := rfl
@[simp] theorem State.interruptEntry_calls : (s.interruptEntry).calls = s.calls := rfl
@[simp] theorem State.interruptEntry_fault : (s.interruptEntry).fault = s.fault := rfl
@[simp] theorem State.interruptEntry_result : (s.interruptEntry).result = s.result := rfl
@[simp] theorem State.interruptEntry_trace : (s.interruptEntry).trace = s.trace := rfl
@[simp] theorem State.interruptEntry_bench : (s.interruptEntry).bench = s.bench := rfl
@[simp] theorem State.interruptEntry_answers : (s.interruptEntry).answers = s.answers := rfl
@[simp] theorem State.interruptEntry_draws : (s.interruptEntry).draws = s.draws := rfl

/-! `State.interruptReturn` -/

@[simp] theorem State.interruptReturn_cfg : (s.interruptReturn).cfg = s.cfg := rfl
@[simp] theorem State.interruptReturn_buf : (s.interruptReturn).buf = s.buf := rfl
@[simp] theorem State.interruptReturn_cursor : (s.interruptReturn).cursor = s.cursor := rfl
@[simp] theorem State.interruptReturn_ledCount : (s.interruptReturn).ledCount = s.ledCount := rfl
@[simp] theorem State.interruptReturn_done : (s.interruptReturn).done = s.done := rfl
@[simp] theorem State.interruptReturn_circ : (s.interruptReturn).circ = s.circ := rfl
@[simp] theorem State.interruptReturn_len : (s.interruptReturn).len = s.len := rfl
@[simp] theorem State.interruptReturn_rem : (s.interruptReturn).rem = s.rem := rfl
@[simp] theorem State.interruptReturn_evh : (s.interruptReturn).evh = s.evh := rfl
@[simp] theorem State.interruptReturn_evf : (s.interruptReturn).evf = s.evf := rfl
@[simp] theorem State.interruptReturn_irqen : (s.interruptReturn).irqen = s.irqen := rfl
@[simp] theorem State.interruptReturn_inited : (s.interruptReturn).inited = s.inited := rfl
@[simp] theorem State.interruptReturn_wire : (s.interruptReturn).wire = s.wire := rfl
@[simp] theorem State.interruptReturn_calls : (s.interruptReturn).calls = s.calls := rfl
@[simp] theorem State.interruptReturn_fault : (s.interruptReturn).fault = s.fault := rfl
@[simp] theorem State.interruptReturn_result : (s.interruptReturn).result = s.result := rfl
@[simp] theorem State.interruptReturn_trace : (s.interruptReturn).trace = s.trace := rfl
@[simp] theorem State.interruptReturn_bench : (s.interruptReturn).bench = s.bench := rfl
@[simp] theorem State.interruptReturn_answers : (s.interruptReturn).answers = s.answers := rfl
@[simp] theorem State.interruptReturn_draws : (s.interruptReturn).draws = s.draws := rfl

/-! `State.setUp` -/

@[simp] theorem State.setUp_cfg : (s.setUp).cfg = s.cfg := rfl
@[simp] theorem State.setUp_buf : (s.setUp).buf = s.buf := rfl
@[simp] theorem State.setUp_cursor : (s.setUp).cursor = s.cursor := rfl
@[simp] theorem State.setUp_ledCount : (s.setUp).ledCount = s.ledCount := rfl
@[simp] theorem State.setUp_done : (s.setUp).done = true := rfl
@[simp] theorem State.setUp_circ : (s.setUp).circ = s.circ := rfl
@[simp] theorem State.setUp_len : (s.setUp).len = s.len := rfl
@[simp] theorem State.setUp_rem : (s.setUp).rem = s.rem := rfl
@[simp] theorem State.setUp_evh : (s.setUp).evh = s.evh := rfl
@[simp] theorem State.setUp_evf : (s.setUp).evf = s.evf := rfl
@[simp] theorem State.setUp_irqen : (s.setUp).irqen = true := rfl
@[simp] theorem State.setUp_inited : (s.setUp).inited = true := rfl
@[simp] theorem State.setUp_wire : (s.setUp).wire = s.wire := rfl
@[simp] theorem State.setUp_calls : (s.setUp).calls = s.calls := rfl
@[simp] theorem State.setUp_fault : (s.setUp).fault = s.fault := rfl
@[simp] theorem State.setUp_result : (s.setUp).result = s.result := rfl
@[simp] theorem State.setUp_trace : (s.setUp).trace = s.trace := rfl
@[simp] theorem State.setUp_bench : (s.setUp).bench = s.bench := rfl
@[simp] theorem State.setUp_answers : (s.setUp).answers = s.answers := rfl
@[simp] theorem State.setUp_draws : (s.setUp).draws = s.draws := rfl

/-! `State.beginFrame` -/

@[simp] theorem State.beginFrame_cfg (n : Int) : (s.beginFrame n).cfg = s.cfg := rfl
@[simp] theorem State.beginFrame_buf (n : Int) : (s.beginFrame n).buf = s.buf := rfl
@[simp] theorem State.beginFrame_cursor (n : Int) : (s.beginFrame n).cursor = some (-s.cfg.r) := rfl
@[simp] theorem State.beginFrame_ledCount (n : Int) : (s.beginFrame n).ledCount = some n := rfl
@[simp] theorem State.beginFrame_done (n : Int) : (s.beginFrame n).done = false := rfl
@[simp] theorem State.beginFrame_circ (n : Int) : (s.beginFrame n).circ = s.circ := rfl
@[simp] theorem State.beginFrame_len (n : Int) : (s.beginFrame n).len = s.len := rfl
@[simp] theorem State.beginFrame_rem (n : Int) : (s.beginFrame n).rem = s.rem := rfl
@[simp] theorem State.beginFrame_evh (n : Int) : (s.beginFrame n).evh = s.evh := rfl
@[simp] theorem State.beginFrame_evf (n : Int) : (s.beginFrame n).evf = s.evf := rfl
@[simp] theorem State.beginFrame_irqen (n : Int) : (s.beginFrame n).irqen = s.irqen := rfl
@[simp] theorem State.beginFrame_inited (n : Int) : (s.beginFrame n).inited = s.inited := rfl
@[simp] theorem State.beginFrame_wire (n : Int) : (s.beginFrame n).wire = [] := rfl
@[simp] theorem State.beginFrame_calls (n : Int) : (s.beginFrame n).calls = [] := rfl
@[simp] theorem State.beginFrame_fault (n : Int) : (s.beginFrame n).fault = s.fault := rfl
@[simp] theorem State.beginFrame_result (n : Int) : (s.beginFrame n).result = s.result := rfl
@[simp] theorem State.beginFrame_trace (n : Int) : (s.beginFrame n).trace = s.trace := rfl
@[simp] theorem State.beginFrame_bench (n : Int) : (s.beginFrame n).bench = s.bench := rfl
@[simp] theorem State.beginFrame_answers (n : Int) : (s.beginFrame n).answers = s.answers := rfl
@[simp] theorem State.beginFrame_draws (n : Int) : (s.beginFrame n).draws = s.draws := rfl

/-! `State.setEvent`: only the flag of the event changes. -/

@[simp] theorem State.setEvent_half_cfg : (s.setEvent .half).cfg = s.cfg := rfl
@[simp] theorem State.setEvent_half_buf : (s.setEvent .half).buf = s.buf := rfl
@[simp] theorem State.setEvent_half_cursor : (s.setEvent .half).cursor = s.cursor := rfl
@[simp] theorem State.setEvent_half_ledCount : (s.setEvent .half).ledCount = s.ledCount := rfl
@[simp] theorem State.setEvent_half_done : (s.setEvent .half).done = s.done := rfl
@[simp] theorem State.setEvent_half_circ : (s.setEvent .half).circ = s.circ := rfl
@[simp] theorem State.setEvent_half_len : (s.setEvent .half).len = s.len := rfl
@[simp] theorem State.setEvent_half_rem : (s.setEvent .half).rem = s.rem := rfl
@[simp] theorem State.setEvent_half_evh : (s.setEvent .half).evh = true := rfl
@[simp] theorem State.setEvent_half_evf : (s.setEvent .half).evf = s.evf := rfl
@[simp] theorem State.setEvent_half_irqen : (s.setEvent .half).irqen = s.irqen := rfl
@[simp] theorem State.setEvent_half_inited : (s.setEvent .half).inited = s.inited := rfl
@[simp] theorem State.setEvent_half_wire : (s.setEvent .half).wire = s.wire := rfl
@[simp] theorem State.setEvent_half_calls : (s.setEvent .half).calls = s.calls := rfl
@[simp] theorem State.setEvent_half_fault : (s.setEvent .half).fault = s.fault := rfl
@[simp] theorem State.setEvent_half_result : (s.setEvent .half).result = s.result := rfl
@[simp] theorem State.setEvent_half_trace : (s.setEvent .half).trace = s.trace := rfl
@[simp] theorem State.setEvent_half_bench : (s.setEvent .half).bench = s.bench := rfl
@[simp] theorem State.setEvent_half_answers : (s.setEvent .half).answers = s.answers := rfl
@[simp] theorem State.setEvent_half_draws : (s.setEvent .half).draws = s.draws := rfl
@[simp] theorem State.setEvent_full_cfg : (s.setEvent .full).cfg = s.cfg := rfl
@[simp] theorem State.setEvent_full_buf : (s.setEvent .full).buf = s.buf := rfl
@[simp] theorem State.setEvent_full_cursor : (s.setEvent .full).cursor = s.cursor := rfl
@[simp] theorem State.setEvent_full_ledCount : (s.setEvent .full).ledCount = s.ledCount := rfl
@[simp] theorem State.setEvent_full_done : (s.setEvent .full).done = s.done := rfl
@[simp] theorem State.setEvent_full_circ : (s.setEvent .full).circ = s.circ := rfl
@[simp] theorem State.setEvent_full_len : (s.setEvent .full).len = s.len := rfl
@[simp] theorem State.setEvent_full_rem : (s.setEvent .full).rem = s.rem := rfl
@[simp] theorem State.setEvent_full_evh : (s.setEvent .full).evh = s.evh := rfl
@[simp] theorem State.setEvent_full_evf : (s.setEvent .full).evf = true := rfl
@[simp] theorem State.setEvent_full_irqen : (s.setEvent .full).irqen = s.irqen := rfl
@[simp] theorem State.setEvent_full_inited : (s.setEvent .full).inited = s.inited := rfl
@[simp] theorem State.setEvent_full_wire : (s.setEvent .full).wire = s.wire := rfl
@[simp] theorem State.setEvent_full_calls : (s.setEvent .full).calls = s.calls := rfl
@[simp] theorem State.setEvent_full_fault : (s.setEvent .full).fault = s.fault := rfl
@[simp] theorem State.setEvent_full_result : (s.setEvent .full).result = s.result := rfl
@[simp] theorem State.setEvent_full_trace : (s.setEvent .full).trace = s.trace := rfl
@[simp] theorem State.setEvent_full_bench : (s.setEvent .full).bench = s.bench := rfl
@[simp] theorem State.setEvent_full_answers : (s.setEvent .full).answers = s.answers := rfl
@[simp] theorem State.setEvent_full_draws : (s.setEvent .full).draws = s.draws := rfl

/-! `placeWord`: only `bench` changes. -/

@[simp] theorem placeWord_cfg (nbits w : Nat) : (placeWord s nbits w).cfg = s.cfg := rfl
@[simp] theorem placeWord_buf (nbits w : Nat) : (placeWord s nbits w).buf = s.buf := rfl
@[simp] theorem placeWord_cursor (nbits w : Nat) : (placeWord s nbits w).cursor = s.cursor := rfl
@[simp] theorem placeWord_ledCount (nbits w : Nat) : (placeWord s nbits w).ledCount = s.ledCount := rfl
@[simp] theorem placeWord_done (nbits w : Nat) : (placeWord s nbits w).done = s.done := rfl
@[simp] theorem placeWord_circ (nbits w : Nat) : (placeWord s nbits w).circ = s.circ := rfl
@[simp] theorem placeWord_len (nbits w : Nat) : (placeWord s nbits w).len = s.len := rfl
@[simp] theorem placeWord_rem (nbits w : Nat) : (placeWord s nbits w).rem = s.rem := rfl
@[simp] theorem placeWord_evh (nbits w : Nat) : (placeWord s nbits w).evh = s.evh := rfl
@[simp] theorem placeWord_evf (nbits w : Nat) : (placeWord s nbits w).evf = s.evf := rfl
@[simp] theorem placeWord_irqen (nbits w : Nat) : (placeWord s nbits w).irqen = s.irqen := rfl
@[simp] theorem placeWord_inited (nbits w : Nat) : (placeWord s nbits w).inited = s.inited := rfl
@[simp] theorem placeWord_wire (nbits w : Nat) : (placeWord s nbits w).wire = s.wire := rfl
@[simp] theorem placeWord_calls (nbits w : Nat) : (placeWord s nbits w).calls = s.calls := rfl
@[simp] theorem placeWord_fault (nbits w : Nat) : (placeWord s nbits w).fault = s.fault := rfl
@[simp] theorem placeWord_result (nbits w : Nat) : (placeWord s nbits w).result = s.result := rfl
@[simp] theorem placeWord_trace (nbits w : Nat) : (placeWord s nbits w).trace = s.trace := rfl
@[simp] theorem placeWord_bench (nbits w : Nat) : (placeWord s nbits w).bench = tableBytes s.cfg nbits w := rfl
@[simp] theorem placeWord_answers (nbits w : Nat) : (placeWord s nbits w).answers = s.answers := rfl
@[simp] theorem placeWord_draws (nbits w : Nat) : (placeWord s nbits w).draws = s.draws := rfl

end Sys2Proof.Machine
end

