-- ==== Sys2Proof/Laws/Engine.lean ====
section
/-! SUPPORT. What firing an event and what one `DRAIN` can do, said once (spec/44_engine_and_colour_source.md R146 to
R150). -/

namespace Sys2Proof.Machine

theorem pending_eq_false {s : State} : s.pending = false ↔ s.evh = false ∧ s.evf = false := by
  simp [State.pending]

theorem evFlags_toNat (s : State) : s.evFlags.toNat = (if s.evf then 2 else 0) + (if s.evh then 1 else 0) := by
  unfold State.evFlags
  cases s.evh <;> cases s.evf <;> rfl

theorem status_toNat (s : State) : s.status.toNat = (if s.rem = 0 then 2 else 0) + (if s.done then 1 else 0) := by
  unfold State.status State.idle
  by_cases h : s.rem = 0 <;> cases s.done <;> simp [h]

/-- An event fires, or underruns on a pending one. -/
theorem fireEvent_cases (ev : Event) (s : State) :
    (s.pending = false ∧ fireEvent ev s = .go (s.setEvent ev)) ∨
    (s.pending = true ∧ fireEvent ev s = .raised (.underrun ev s.evFlags) s) := by
  unfold fireEvent
  cases h : s.pending <;> simp

/-- What one `DRAIN` of a running engine can do (R146 to R150). `half`: it consumed slot `H - 1`; `full`: slot `C - 1`. -/
theorem execDrain_cases {s : State} (h0 : 0 < s.rem) (hh : 0 < s.cfg.c - s.cfg.h) :
    (∃ v, Memory.read s.buf (s.cfg.c - s.rem) = some v ∧
      ((s.rem - 1 ≠ s.cfg.c - s.cfg.h ∧ s.rem ≠ 1 ∧
          execDrain s = .next ((s.emit v).setRem (s.rem - 1))) ∨
       (s.rem - 1 = s.cfg.c - s.cfg.h ∧ s.pending = false ∧
          execDrain s = .next (((s.emit v).setRem (s.rem - 1)).setEvent .half)) ∨
       (s.rem = 1 ∧ s.pending = false ∧
          execDrain s = .next (lapEnd (((s.emit v).setRem 0).setEvent .full))) ∨
       (s.rem - 1 = s.cfg.c - s.cfg.h ∧ s.pending = true ∧
          execDrain s = .next (((s.emit v).setRem (s.rem - 1)).raise (.underrun .half s.evFlags))) ∨
       (s.rem = 1 ∧ s.pending = true ∧
          execDrain s = .next (((s.emit v).setRem 0).raise (.underrun .full s.evFlags))))) ∨
    (Memory.read s.buf (s.cfg.c - s.rem) = none ∧
      execDrain s = .next (s.raise (.uninitialised (.slot (s.cfg.c - s.rem))))) := by
  have hne : s.rem ≠ 0 := by omega
  cases hr : Memory.read s.buf (s.cfg.c - s.rem) with
  | none => right; exact ⟨rfl, by simp [execDrain, hne, hr]⟩
  | some v =>
    left
    refine ⟨v, rfl, ?_⟩
    have hp : ((s.emit v).setRem (s.rem - 1)).pending = s.pending := rfl
    have he : ((s.emit v).setRem (s.rem - 1)).evFlags = s.evFlags := rfl
    have e : execDrain s = ((halfDrained ((s.emit v).setRem (s.rem - 1))).andThen fullDrained).finish := by
      simp only [execDrain, if_neg hne, hr]
    by_cases h1 : s.rem - 1 = s.cfg.c - s.cfg.h
    · have h1' : s.rem - 1 ≠ 0 := by omega
      have h1'' : ((s.emit v).setRem (s.rem - 1)).rem =
          ((s.emit v).setRem (s.rem - 1)).cfg.c - ((s.emit v).setRem (s.rem - 1)).cfg.h := h1
      rcases fireEvent_cases .half ((s.emit v).setRem (s.rem - 1)) with ⟨a, b⟩ | ⟨a, b⟩
      · right; left
        refine ⟨h1, by rw [← hp]; exact a, ?_⟩
        have hz : ¬ ((((s.emit v).setRem (s.rem - 1)).setEvent .half).rem = 0) := h1'
        rw [e, halfDrained, if_pos h1'', b, Flow.andThen, fullDrained, if_neg hz, Flow.finish]
      · right; right; right; left
        refine ⟨h1, by rw [← hp]; exact a, ?_⟩
        rw [e, halfDrained, if_pos h1'', b, he, Flow.andThen, Flow.finish]
    · by_cases h2 : s.rem = 1
      · rw [h2] at h1 e hp he
        rcases fireEvent_cases .full ((s.emit v).setRem 0) with ⟨a, b⟩ | ⟨a, b⟩
        · right; right; left
          refine ⟨h2, by rw [← hp]; exact a, ?_⟩
          rw [e]
          simp only [Nat.sub_self, halfDrained, State.setRem_rem, State.setRem_cfg, State.emit_cfg] at h1 ⊢
          rw [if_neg h1]
          simp [fullDrained, Flow.andThen, Flow.finish, b]
        · right; right; right; right
          refine ⟨h2, by rw [← hp]; exact a, ?_⟩
          rw [e]
          simp only [Nat.sub_self, halfDrained, State.setRem_rem, State.setRem_cfg, State.emit_cfg] at h1 he ⊢
          rw [if_neg h1]
          simp [fullDrained, Flow.andThen, Flow.finish, b, he]
      · left
        refine ⟨h1, h2, ?_⟩
        rw [e]
        have h2' : s.rem - 1 ≠ 0 := by omega
        simp [halfDrained, h1, fullDrained, Flow.andThen, Flow.finish, h2']

/-- `t` differs from `s` only as a `DRAIN` may make it differ (R37). -/
structure Drained (s t : State) : Prop where
  frame : t = { s with rem := t.rem, evh := t.evh, evf := t.evf, wire := t.wire, fault := t.fault }
  evh : s.evh = true → t.evh = true
  evf : s.evf = true → t.evf = true
  wire : t.wire = s.wire ∨ ∃ v, (s.cfg.c - s.rem, v) ∈ s.buf ∧ t.wire = s.wire ++ [v]
  rem : t.rem ≤ s.rem ∨ t.rem = s.cfg.c
  oneFlag : ¬(s.evh = true ∧ s.evf = true) → ¬(t.evh = true ∧ t.evf = true)

/-- The frame of `DRAIN`, for every state, with or without a fault. -/
theorem execDrain_drained {s t : State} (h : execDrain s = .next t) : Drained s t := by
  have base : ∀ v, Memory.read s.buf (s.cfg.c - s.rem) = some v → ∀ r, r ≤ s.rem → ∀ a b,
      (s.evh = true → a = true) → (s.evf = true → b = true) → ¬(a = true ∧ b = true) ∨ (a = s.evh ∧ b = s.evf) →
      ∀ r', r' = r ∨ r' = s.cfg.c → ∀ f,
      Drained s { s with wire := s.wire ++ [v], rem := r', evh := a, evf := b, fault := f } := by
    intro v hv r hr a b ha hb hab r' hr' f
    refine ⟨rfl, ha, hb, .inr ⟨v, Memory.mem_of_read hv, rfl⟩, ?_, ?_⟩
    · show r' ≤ s.rem ∨ r' = s.cfg.c
      omega
    · intro h0
      rcases hab with h | ⟨rfl, rfl⟩
      · exact h
      · exact h0
  unfold execDrain at h
  split_ifs at h with h0
  split at h
  · cases h
    exact ⟨rfl, id, id, .inl rfl, .inl le_rfl, id⟩
  · rename_i v hv
    have hev : ((s.emit v).setRem (s.rem - 1)).pending = s.pending := rfl
    unfold halfDrained at h
    have hp : s.pending = false → s.evh = false ∧ s.evf = false := pending_eq_false.1
    by_cases p : s.pending = true
    · have e1 : ∀ ev, fireEvent ev ((s.emit v).setRem (s.rem - 1)) =
          .raised (.underrun ev s.evFlags) ((s.emit v).setRem (s.rem - 1)) := fun ev => by
        rw [fireEvent, if_pos (by exact p)]; rfl
      split_ifs at h with h1
      · rw [e1] at h; cases h
        exact base v hv _ (Nat.sub_le _ 1) _ _ id id (.inr ⟨rfl, rfl⟩) _ (.inl rfl) _
      · simp only [Flow.andThen, fullDrained] at h
        split_ifs at h with h2
        · rw [e1] at h; cases h
          exact base v hv _ (Nat.sub_le _ 1) _ _ id id (.inr ⟨rfl, rfl⟩) _ (.inl rfl) _
        · cases h
          exact base v hv _ (Nat.sub_le _ 1) _ _ id id (.inr ⟨rfl, rfl⟩) _ (.inl rfl) s.fault
    · have p : s.pending = false := by simpa using p
      have ⟨ph, pf⟩ := hp p
      have e1 : ∀ ev, fireEvent ev ((s.emit v).setRem (s.rem - 1)) =
          .go (((s.emit v).setRem (s.rem - 1)).setEvent ev) := fun ev => by
        rw [fireEvent, hev, p]; rfl
      split_ifs at h with h1
      · rw [e1] at h
        simp only [Flow.andThen, fullDrained] at h
        split_ifs at h with h2
        · rw [fireEvent, if_pos (by simp [State.pending])] at h
          cases h
          exact base v hv _ (Nat.sub_le _ 1) true s.evf (fun _ => rfl) id (.inl (by simp [pf])) _ (.inl rfl) _
        · cases h
          exact base v hv _ (Nat.sub_le _ 1) true s.evf (fun _ => rfl) id (.inl (by simp [pf])) _ (.inl rfl) s.fault
      · simp only [Flow.andThen, fullDrained] at h
        split_ifs at h with h2
        · rw [e1] at h; cases h
          simp only [lapEnd]
          split_ifs
          · exact base v hv _ (Nat.sub_le _ 1) s.evh true id (fun _ => rfl) (.inl (by simp [ph])) _ (.inr rfl) s.fault
          · exact base v hv _ (Nat.sub_le _ 1) s.evh true id (fun _ => rfl) (.inl (by simp [ph])) _ (.inl rfl) s.fault
        · cases h
          exact base v hv _ (Nat.sub_le _ 1) _ _ id id (.inr ⟨rfl, rfl⟩) _ (.inl rfl) s.fault

end Sys2Proof.Machine
end

