-- ==== Sys2Proof/Laws/Filler.lean ====
section
/-! SUPPORT. What `FILL` can do. First for every segment and configuration: which fields it writes, and to what
(`Filled`). Then, when the groups fit, each phase in closed form, and the whole call as a window of the logical stream. -/

namespace Sys2Proof.Machine

/-! Every call: the frame -/

/-- `t` differs from `s` only as a `FILL` of slots `lo` to `hi` may make it differ: the buffer in that range, `CURSOR`,
`DONE` only to 1, `CIRC` only to 0, `CALLS` only longer, and the colour source's own fields. -/
structure Filled (lo hi : Nat) (s t : State) : Prop where
  cfg : t.cfg = s.cfg
  ledCount : t.ledCount = s.ledCount
  len : t.len = s.len
  rem : t.rem = s.rem
  evh : t.evh = s.evh
  evf : t.evf = s.evf
  irqen : t.irqen = s.irqen
  inited : t.inited = s.inited
  wire : t.wire = s.wire
  fault : t.fault = s.fault
  result : t.result = s.result
  trace : t.trace = s.trace
  bench : t.bench = s.bench
  done : t.done = s.done ∨ t.done = true
  circ : t.circ = s.circ ∨ t.circ = false
  calls : s.calls <+: t.calls
  outside : ∀ j, j < lo ∨ hi ≤ j → Memory.read t.buf j = Memory.read s.buf j
  sorted : Memory.wf s.buf → Memory.wf t.buf
  listed : ∀ e ∈ t.buf, e ∈ s.buf ∨ (lo ≤ e.1 ∧ e.1 < hi ∧ (s.cfg.Ok → e.2 < 2 ^ s.cfg.w))

theorem Filled.refl (lo hi : Nat) (s : State) : Filled lo hi s s :=
  ⟨rfl, rfl, rfl, rfl, rfl, rfl, rfl, rfl, rfl, rfl, rfl, rfl, rfl, .inl rfl, .inl rfl, List.prefix_refl _,
    fun _ _ => rfl, id, fun _ h => .inl h⟩

theorem Filled.trans {lo hi : Nat} {s t u : State} (h1 : Filled lo hi s t) (h2 : Filled lo hi t u) : Filled lo hi s u where
  cfg := h2.cfg.trans h1.cfg
  ledCount := h2.ledCount.trans h1.ledCount
  len := h2.len.trans h1.len
  rem := h2.rem.trans h1.rem
  evh := h2.evh.trans h1.evh
  evf := h2.evf.trans h1.evf
  irqen := h2.irqen.trans h1.irqen
  inited := h2.inited.trans h1.inited
  wire := h2.wire.trans h1.wire
  fault := h2.fault.trans h1.fault
  result := h2.result.trans h1.result
  trace := h2.trace.trans h1.trace
  bench := h2.bench.trans h1.bench
  done := by rcases h2.done with h | h <;> [(rw [h]; exact h1.done); exact .inr h]
  circ := by rcases h2.circ with h | h <;> [(rw [h]; exact h1.circ); exact .inr h]
  calls := h1.calls.trans h2.calls
  outside j h := (h2.outside j h).trans (h1.outside j h)
  sorted h := h2.sorted (h1.sorted h)
  listed e he := by
    rcases h2.listed e he with h | ⟨h, h', h''⟩
    · exact h1.listed e h
    · exact .inr ⟨h, h', fun ok => by rw [← h1.cfg] at ok ⊢; exact h'' ok⟩

/-- A `FILL` without a fault, as a record update. -/
theorem Filled.frame {lo hi : Nat} {s t : State} (h : Filled lo hi s t) :
    t = { s with buf := t.buf, cursor := t.cursor, done := t.done, circ := t.circ, calls := t.calls,
                 answers := t.answers, draws := t.draws } := by
  obtain ⟨h1, h2, h3, h4, h5, h6, h7, h8, h9, h10, h11, h12, h13, -, -, -, -, -, -⟩ := h
  cases s; cases t; simp_all

/-- One write inside the range, of symbols of the right width, with the other fields as a `FILL` may leave them. -/
theorem filled_memWrite {lo hi p : Nat} {vs : List Symbol} (s : State) (h1 : lo ≤ p) (h2 : p + vs.length ≤ hi)
    (h3 : s.cfg.Ok → ∀ v ∈ vs, v < 2 ^ s.cfg.w) : Filled lo hi s (s.memWrite p vs) :=
  ⟨rfl, rfl, rfl, rfl, rfl, rfl, rfl, rfl, rfl, rfl, rfl, rfl, rfl, .inl rfl, .inl rfl, List.prefix_refl _,
    fun j hj => Memory.read_writeList_outside (by omega), Memory.wf_writeList vs p, fun e he => by
      rcases Memory.mem_writeList he with h | ⟨h, h', h''⟩
      · exact .inl h
      · exact .inr ⟨by omega, by omega, fun ok => h3 ok _ h''⟩⟩

theorem filled_setCursor (lo hi : Nat) (s : State) (c : Int) : Filled lo hi s (s.setCursor c) :=
  ⟨rfl, rfl, rfl, rfl, rfl, rfl, rfl, rfl, rfl, rfl, rfl, rfl, rfl, .inl rfl, .inl rfl, List.prefix_refl _,
    fun _ _ => rfl, id, fun _ h => .inl h⟩

theorem filled_logCall (lo hi : Nat) (s : State) (i : Int) : Filled lo hi s (s.logCall i) :=
  ⟨rfl, rfl, rfl, rfl, rfl, rfl, rfl, rfl, rfl, rfl, rfl, rfl, rfl, .inl rfl, .inl rfl, List.prefix_append _ _,
    fun _ _ => rfl, id, fun _ h => .inl h⟩

theorem filled_disarm (lo hi : Nat) (s : State) : Filled lo hi s s.disarmCircular :=
  ⟨rfl, rfl, rfl, rfl, rfl, rfl, rfl, rfl, rfl, rfl, rfl, rfl, rfl, .inl rfl, .inr rfl, List.prefix_refl _,
    fun _ _ => rfl, id, fun _ h => .inl h⟩

theorem filled_setDone (lo hi : Nat) (s : State) : Filled lo hi s (s.setDone true) :=
  ⟨rfl, rfl, rfl, rfl, rfl, rfl, rfl, rfl, rfl, rfl, rfl, rfl, rfl, .inr rfl, .inl rfl, List.prefix_refl _,
    fun _ _ => rfl, id, fun _ h => .inl h⟩

theorem zeroSymbol_lt (w : Nat) : zeroSymbol < 2 ^ w := by positivity

theorem filled_preambleStep {lo hi p : Nat} (c : Int) (s : State) (h1 : lo ≤ p) (h2 : p + 2 ≤ hi) :
    Filled lo hi s (preambleStep p c s) :=
  (filled_memWrite s h1 (by simpa using h2) (fun _ v hv => by
    simp at hv; subst hv; exact zeroSymbol_lt _)).trans (filled_setCursor _ _ _ _)

theorem filled_ledStep {lo hi p : Nat} (c : Int) (s : State) (h1 : lo ≤ p) (h2 : p + 6 ≤ hi) :
    Filled lo hi s (ledStep p c s) :=
  ((filled_logCall lo hi s c).trans (filled_memWrite _ h1 (by simpa using h2)
    (fun ok => encodeColour_lt ok _))).trans (filled_setCursor _ _ _ _)

/-- The state a phase ends in, with or without a fault. -/
def PhaseEnd.state : PhaseEnd → State
  | .at _ _ s => s
  | .raised _ s => s

/-- The state a sub-operation ends in, with or without a fault. -/
def Flow.state : Flow → State
  | .go s => s
  | .raised _ s => s

theorem fillPreamble_filled {lo fin : Nat} (fuel : Nat) {p : Nat} {c : Int} {s : State} (h1 : lo ≤ p) (h2 : p ≤ fin) :
    Filled lo fin s (fillPreamble fin fuel p c s).state ∧
    ∀ p' c' t, fillPreamble fin fuel p c s = .at p' c' t → lo ≤ p' ∧ p' ≤ fin := by
  induction fuel generalizing p c s with
  | zero => exact ⟨Filled.refl _ _ _, fun p' c' t h => by cases h; exact ⟨h1, h2⟩⟩
  | succ fuel ih =>
    rw [fillPreamble]
    split_ifs with ha hb
    · exact ⟨Filled.refl _ _ _, fun _ _ _ h => by cases h⟩
    · have hp : p + 2 ≤ fin := by simp [preSyms] at hb; omega
      have := ih (p := p + preSyms) (c := c + 1) (s := preambleStep p c s) (by simp [preSyms]; omega) (by simpa [preSyms])
      exact ⟨(filled_preambleStep c s h1 hp).trans this.1, this.2⟩
    · exact ⟨Filled.refl _ _ _, fun p' c' t h => by cases h; exact ⟨h1, h2⟩⟩

theorem fillLeds_filled {lo fin : Nat} (n : Int) (fuel : Nat) {p : Nat} {c : Int} {s : State} (h1 : lo ≤ p) (h2 : p ≤ fin) :
    Filled lo fin s (fillLeds n fin fuel p c s).state ∧
    ∀ p' c' t, fillLeds n fin fuel p c s = .at p' c' t → lo ≤ p' ∧ p' ≤ fin := by
  induction fuel generalizing p c s with
  | zero => exact ⟨Filled.refl _ _ _, fun p' c' t h => by cases h; exact ⟨h1, h2⟩⟩
  | succ fuel ih =>
    rw [fillLeds]
    split_ifs with ha hb
    · exact ⟨Filled.refl _ _ _, fun _ _ _ h => by cases h⟩
    · have hp : p + 6 ≤ fin := by simp [ledSyms] at hb; omega
      have := ih (p := p + ledSyms) (c := c + 1) (s := ledStep p c s) (by simp [ledSyms]; omega) (by simpa [ledSyms])
      exact ⟨(filled_ledStep c s h1 hp).trans this.1, this.2⟩
    · exact ⟨Filled.refl _ _ _, fun p' c' t h => by cases h; exact ⟨h1, h2⟩⟩

theorem fillPadding_filled {lo fin p : Nat} (n : Int) (closing : Bool) (c : Int) (s : State) (h1 : lo ≤ p) (h2 : p ≤ fin) :
    Filled lo fin s (fillPadding n fin closing p c s) := by
  have hw : Filled lo fin s (s.memWrite p (List.replicate (fin - p) zeroSymbol)) :=
    filled_memWrite s h1 (by simp; omega) (fun _ v hv => by
      rw [List.eq_of_mem_replicate hv]; exact zeroSymbol_lt _)
  have hc : ∀ u, Filled lo fin u (closeFrame n closing u) := fun u => by
    unfold closeFrame
    split_ifs
    · exact (filled_disarm _ _ _).trans (filled_setCursor _ _ _ _)
    · exact Filled.refl _ _ _
  have hd : ∀ u, Filled lo fin u (detectCompletion n u) := fun u => by
    unfold detectCompletion
    split_ifs
    · exact filled_setDone _ _ _
    · exact Filled.refl _ _ _
  unfold fillPadding
  split_ifs
  · exact hw.trans ((hc _).trans (hd _))
  · exact Filled.refl _ _ _

/-- The frame of `FILL`, for every segment, configuration and cursor, with or without a fault. -/
theorem fillSegment_filled (start count : Nat) (closing : Bool) (s : State) :
    Filled start (start + count) s (fillSegment start count closing s).state := by
  unfold fillSegment
  split_ifs
  · split
    · exact Filled.refl _ _ _
    · exact Filled.refl _ _ _
    · rename_i c n _ _
      unfold fillPhases
      have h1 := fillPreamble_filled (lo := start) (fin := start + count) count (p := start) (c := c) (s := s)
        le_rfl (by omega)
      split
      · rename_i f t e; rw [e] at h1; exact h1.1
      · rename_i p c' t e
        have hp := h1.2 _ _ _ e
        rw [e] at h1
        have h2 := fillLeds_filled (lo := start) (fin := start + count) n count (p := p) (c := c') (s := t) hp.1 hp.2
        split
        · rename_i f u e2; rw [e2] at h2; exact h1.1.trans h2.1
        · rename_i p2 c2 u e2
          have hp2 := h2.2 _ _ _ e2
          rw [e2] at h2
          exact (h1.1.trans h2.1).trans (fillPadding_filled n closing c2 u hp2.1 hp2.2)
  · exact Filled.refl _ _ _

theorem fillPreamble_circ (fin fuel p : Nat) (c : Int) (s : State) : (fillPreamble fin fuel p c s).state.circ = s.circ := by
  induction fuel generalizing p c s with
  | zero => rfl
  | succ fuel ih =>
    rw [fillPreamble]
    split_ifs
    · rfl
    · exact ih _ _ (preambleStep p c s)
    · rfl

theorem fillLeds_circ (n : Int) (fin fuel p : Nat) (c : Int) (s : State) :
    (fillLeds n fin fuel p c s).state.circ = s.circ := by
  induction fuel generalizing p c s with
  | zero => rfl
  | succ fuel ih =>
    rw [fillLeds]
    split_ifs
    · rfl
    · exact ih _ _ (ledStep p c s)
    · rfl

theorem fillPadding_open_circ (n : Int) (fin p : Nat) (c : Int) (s : State) : (fillPadding n fin false p c s).circ = s.circ := by
  unfold fillPadding closeFrame detectCompletion
  simp only [Bool.false_eq_true, false_and, if_false]
  split_ifs <;> rfl

/-- A call that is not closing leaves circular mode alone, whatever the state, with or without a fault (R96). -/
theorem fillSegment_open_circ (start count : Nat) (s : State) : (fillSegment start count false s).state.circ = s.circ := by
  unfold fillSegment
  split_ifs
  · split
    · rfl
    · rfl
    · rename_i c n _ _
      unfold fillPhases
      have h1 := fillPreamble_circ (start + count) count start c s
      split
      · rename_i f t e; rw [e] at h1; exact h1
      · rename_i p c' t e
        rw [e] at h1
        have h2 := fillLeds_circ n (start + count) count p c' t
        split
        · rename_i f u e2; rw [e2] at h2; exact h2.trans h1
        · rename_i p2 c2 u e2
          rw [e2] at h2
          exact (fillPadding_open_circ n _ p2 c2 u).trans (h2.trans h1)
  · rfl

/-! Each phase in closed form -/

/-- The state after a number of preamble pairs. -/
def afterPreamble (p k : Nat) (c : Int) (s : State) : State :=
  (s.memWrite p (List.replicate (2 * k) zeroSymbol)).setCursor (c + k)

/-- The symbols of the next `k` LEDs. -/
def ledSymbols (k : Nat) (s : State) : List Symbol :=
  (List.range k).flatMap fun j => encodeColour s.cfg (s.nextColour j)

/-- The state after a number of LEDs. -/
def afterLeds (p k : Nat) (c : Int) (s : State) : State :=
  { s with buf := Memory.writeList s.buf p (ledSymbols k s), cursor := some (c + k),
           calls := s.calls ++ (List.range k).map (fun j : Nat => c + (j : Int)),
           answers := s.answers.drop k, draws := s.draws + k }

theorem setCursor_self {s : State} {c : Int} (h : s.cursor = some c) : s.setCursor c = s := by
  cases s; simp only [State.setCursor] at *; simp [h]

theorem afterPreamble_zero {p : Nat} {c : Int} {s : State} (h : s.cursor = some c) : afterPreamble p 0 c s = s := by
  simp [afterPreamble, State.memWrite, Memory.writeList, setCursor_self h]

theorem afterPreamble_succ (p k : Nat) (c : Int) (s : State) :
    afterPreamble (p + 2) k (c + 1) (preambleStep p c s) = afterPreamble p (k + 1) c s := by
  have e : List.replicate (2 * (k + 1)) zeroSymbol = [zeroSymbol, zeroSymbol] ++ List.replicate (2 * k) zeroSymbol := by
    rw [show 2 * (k + 1) = 2 * k + 1 + 1 by ring]; simp [List.replicate_succ]
  simp only [afterPreamble, preambleStep, State.memWrite, State.setCursor, e, Memory.writeList_append, List.length_cons,
    List.length_nil]
  congr 2
  push_cast; ring

theorem afterLeds_zero {p : Nat} {c : Int} {s : State} (h : s.cursor = some c) : afterLeds p 0 c s = s := by
  cases s; simp_all [afterLeds, ledSymbols, Memory.writeList]

theorem nextColour_ledStep (p : Nat) (c : Int) (s : State) (k : Nat) : (ledStep p c s).nextColour k = s.nextColour (k + 1) := by
  simp only [State.nextColour, ledStep, State.setCursor_answers, State.memWrite_answers, State.logCall_answers,
    State.setCursor_draws, State.memWrite_draws, State.logCall_draws, List.getElem?_tail]
  rw [show s.draws + 1 + k = s.draws + (k + 1) by ring]

theorem afterLeds_succ (p k : Nat) (c : Int) (s : State) :
    afterLeds (p + 6) k (c + 1) (ledStep p c s) = afterLeds p (k + 1) c s := by
  have e : ledSymbols (k + 1) s = encodeColour s.cfg (s.nextColour 0) ++ ledSymbols k (ledStep p c s) := by
    simp only [ledSymbols, List.range_succ_eq_map, List.flatMap_cons, List.flatMap_map, nextColour_ledStep]
    rfl
  have e2 : (List.range (k + 1)).map (fun j : Nat => c + (j : Int)) = [c] ++ (List.range k).map (fun j : Nat => c + 1 + (j : Int)) := by
    simp only [List.range_succ_eq_map, List.map_cons, List.map_map, List.singleton_append]
    congr 1
    · simp
    · apply List.map_congr_left; intro j _; simp; ring
  simp only [afterLeds, e, e2, Memory.writeList_append, encodeColour_length]
  have h1 : s.draws + 1 + k = s.draws + (k + 1) := by ring
  have h2 : c + 1 + (k : Int) = c + ((k + 1 : Nat) : Int) := by push_cast; ring
  simp only [ledStep, State.memWrite, State.setCursor, State.logCall, List.append_assoc, List.drop_tail, h1, h2]

/-- Phase 1: as many pairs as the preamble still needs or the segment holds; an overrun if one slot is left over. -/
theorem fillPreamble_eq {fin fuel p k : Nat} {c : Int} {s : State} (hc : s.cursor = some c) (hp : p ≤ fin)
    (hf : fin - p ≤ fuel) (hk : k = min (-c).toNat ((fin - p) / 2)) :
    fillPreamble fin fuel p c s =
      if k < (-c).toNat ∧ p + 2 * k ≠ fin then .raised (.segmentOverrun (p + 2 * k) 2) (afterPreamble p k c s)
      else .at (p + 2 * k) (c + k) (afterPreamble p k c s) := by
  induction fuel generalizing p k c s with
  | zero =>
    have : k = 0 := by omega
    subst this
    rw [if_neg (by omega)]
    simp [fillPreamble, afterPreamble_zero hc]
  | succ fuel ih =>
    rw [fillPreamble]
    split_ifs with ha hb hd hd hd
    · have : k = 0 := by simp only [preSyms] at hb; omega
      subst this
      simp [afterPreamble_zero hc]
    · simp only [preSyms] at hb; omega
    all_goals try
      obtain ⟨k', rfl⟩ : ∃ k', k = k' + 1 := ⟨k - 1, by simp only [preSyms] at hb; omega⟩
      rw [ih (p := p + preSyms) (c := c + 1) (s := preambleStep p c s) (k := k') rfl (by simp only [preSyms] at hb ⊢; omega)
        (by simp only [preSyms]; omega) (by simp only [preSyms]; omega)]
      simp only [preSyms, afterPreamble_succ] at hb ⊢
    · rw [if_pos (by omega)]
      congr 2; ring
    · rw [if_neg (by omega)]
      congr 1
      · ring
      · push_cast; ring
    · omega
    · have : k = 0 := by omega
      subst this
      simp [afterPreamble_zero hc]

/-- Phase 2: as many LEDs as there are or the segment holds; an overrun if fewer than six slots are left over. -/
theorem fillLeds_eq {fin fuel p k : Nat} {c n : Int} {s : State} (hc : s.cursor = some c) (hp : p ≤ fin)
    (h0 : 0 ≤ c ∨ p = fin) (hf : fin - p ≤ fuel) (hk : k = min (n - c).toNat ((fin - p) / 6)) :
    fillLeds n fin fuel p c s =
      if k < (n - c).toNat ∧ p + 6 * k ≠ fin then .raised (.segmentOverrun (p + 6 * k) 6) (afterLeds p k c s)
      else .at (p + 6 * k) (c + k) (afterLeds p k c s) := by
  induction fuel generalizing p k c s with
  | zero =>
    have : k = 0 := by omega
    subst this
    rw [if_neg (by omega)]
    simp [fillLeds, afterLeds_zero hc]
  | succ fuel ih =>
    rw [fillLeds]
    split_ifs with ha hb hd hd hd
    · have : k = 0 := by simp only [ledSyms] at hb; omega
      subst this
      simp [afterLeds_zero hc]
    · simp only [ledSyms] at hb; omega
    all_goals try
      obtain ⟨k', rfl⟩ : ∃ k', k = k' + 1 := ⟨k - 1, by simp only [ledSyms] at hb; omega⟩
      rw [ih (p := p + ledSyms) (c := c + 1) (s := ledStep p c s) (k := k') rfl (by simp only [ledSyms] at hb ⊢; omega)
        (by omega) (by simp only [ledSyms]; omega) (by simp only [ledSyms]; omega)]
      simp only [ledSyms, afterLeds_succ] at hb ⊢
    · rw [if_pos (by omega)]
      congr 2; ring
    · rw [if_neg (by omega)]
      congr 1
      · ring
      · push_cast; ring
    · omega
    · have : k = 0 := by omega
      subst this
      simp [afterLeds_zero hc]

end Sys2Proof.Machine
end

