-- ==== Sys2Proof/Laws/Fill.lean ====
section
/-! SUPPORT. What one `FILL` does from any cursor: its symbols, registers and calls when every group it starts fits, and
where it overruns when one does not (spec/41_segment_filler.md R93 to R100). -/

namespace Sys2Proof.Machine

@[simp] theorem ledSymbols_length (k : Nat) (s : State) : (ledSymbols k s).length = 6 * k := by
  simp [ledSymbols, List.length_flatMap, mul_comm]

theorem ledSymbols_getElem (s : State) {k i : Nat} (h : i < 6 * k) :
    (ledSymbols k s)[i]? = some (encodeNibble s.cfg ((s.nextColour (i / 6)).nibble (i % 6))) := by
  induction k with
  | zero => omega
  | succ k ih =>
    have e : ledSymbols (k + 1) s = ledSymbols k s ++ encodeColour s.cfg (s.nextColour k) := by
      simp [ledSymbols, List.range_succ]
    rw [e]
    rcases lt_or_ge i (6 * k) with hi | hi
    · rw [List.getElem?_append_left (by simpa using hi), ih hi]
    · rw [List.getElem?_append_right (by simpa using hi), ledSymbols_length, encodeColour_getElem _ _ (by omega)]
      have h1 : i / 6 = k := by omega
      have h2 : i % 6 = i - 6 * k := by omega
      rw [h1, h2]

theorem nextColour_congr {s t : State} (ha : t.answers = s.answers) (hd : t.draws = s.draws) (k : Nat) :
    t.nextColour k = s.nextColour k := by
  simp [State.nextColour, ha, hd]

theorem nextColour_drop {s t : State} {m : Nat} (ha : t.answers = s.answers.drop m) (hd : t.draws = s.draws + m) (k : Nat) :
    t.nextColour k = s.nextColour (m + k) := by
  simp only [State.nextColour, ha, hd, List.getElem?_drop, Nat.add_assoc]

/-- What phase 3 does to the registers, given the cursor it finds. -/
theorem fillPadding_entered {n c : Int} {fin p : Nat} (closing : Bool) {s : State} (hc : s.cursor = some c) (hp : p ≠ fin)
    (hn : n ≤ c) :
    fillPadding n fin closing p c s =
      { s with
        buf := Memory.writeList s.buf p (List.replicate (fin - p) zeroSymbol)
        cursor := some (if closing = true ∧ c = n then n + 1 else c)
        circ := s.circ && !(closing && decide (c = n))
        done := s.done || decide ((closing = true ∧ c = n) ∨ c = n + 1) } := by
  have h1 : ¬ (n = n + 1) := by omega
  by_cases ha : closing = true <;> by_cases hb : c = n
  · subst hb
    simp [fillPadding, closeFrame, detectCompletion, hp, ha, hc, State.memWrite, State.setCursor, State.disarmCircular,
      State.setDone]
  · by_cases hb' : c = n + 1 <;>
      simp [fillPadding, closeFrame, detectCompletion, hp, ha, hb, hb', hc, hn, State.memWrite, State.setDone]
  · subst hb
    simp [fillPadding, closeFrame, detectCompletion, hp, ha, hc, State.memWrite, h1]
  · by_cases hb' : c = n + 1 <;>
      simp [fillPadding, closeFrame, detectCompletion, hp, ha, hb, hb', hc, hn, State.memWrite, State.setDone]

theorem fillPadding_skipped {n c : Int} {fin p : Nat} (closing : Bool) {s : State} (h : p = fin) :
    fillPadding n fin closing p c s = s := by
  simp [fillPadding, h]

/-- The registers after the two data phases of a call. -/
def afterData (start count : Nat) (c n : Int) (s : State) : State :=
  afterLeds (start + 2 * (min (preambleSlots c) count / 2)) (ledsWritten c n count)
    (c + (min (preambleSlots c) count / 2 : Nat)) (afterPreamble start (min (preambleSlots c) count / 2) c s)

/-- How many slots of a call the data phases write. -/
def dataSlots (c n : Int) (count : Nat) : Nat := 2 * (min (preambleSlots c) count / 2) + 6 * ledsWritten c n count

theorem dataSlots_le (c n : Int) (count : Nat) : dataSlots c n count ≤ count := by
  simp only [dataSlots, ledsWritten]; omega

theorem afterData_cursor (start count : Nat) (c n : Int) (s : State) :
    (afterData start count c n s).cursor = some (cursorAfterData c n count) := by
  show some _ = some _
  congr 1
  simp only [cursorAfterData]
  push_cast
  ring

theorem afterData_calls (start count : Nat) (c n : Int) (s : State) :
    (afterData start count c n s).calls =
      s.calls ++ (List.range (ledsWritten c n count)).map (fun j : Nat => max c 0 + (j : Int)) := by
  show s.calls ++ _ = _
  congr 1
  apply List.map_congr_left
  intro j hj
  have := List.mem_range.1 hj
  simp only [ledsWritten, ledSlots, preambleSlots] at *
  omega

theorem afterData_nextColour (start count : Nat) (c n : Int) (s : State) (k : Nat) :
    (afterData start count c n s).nextColour k = s.nextColour (ledsWritten c n count + k) :=
  nextColour_drop rfl rfl k

theorem afterData_read {start count : Nat} {c n : Int} {s : State} {j : Nat} (hj : j < dataSlots c n count) :
    Memory.read (afterData start count c n s).buf (start + j) = some (fillSymbol s c n j) := by
  have eb : (afterData start count c n s).buf = Memory.writeList (Memory.writeList s.buf start
      (List.replicate (2 * (min (preambleSlots c) count / 2)) zeroSymbol)) (start + 2 * (min (preambleSlots c) count / 2))
      (ledSymbols (ledsWritten c n count) (afterPreamble start (min (preambleSlots c) count / 2) c s)) := rfl
  have hcol : ∀ k, (afterPreamble start (min (preambleSlots c) count / 2) c s).nextColour k = s.nextColour k :=
    nextColour_congr rfl rfl
  have hev : preambleSlots c % 2 = 0 := by simp [preambleSlots]
  have hl : ledsWritten c n count = min (ledSlots c n) (count - preambleSlots c) / 6 := rfl
  simp only [dataSlots] at hj
  rw [eb, Memory.read_writeList, ledSymbols_length]
  rcases lt_or_ge j (2 * (min (preambleSlots c) count / 2)) with h | h
  · rw [if_neg (by omega), Memory.read_writeList, List.length_replicate, if_pos (by omega), List.getElem?_replicate,
      if_pos (by omega), fillSymbol, if_pos (by omega)]
  · have e : 2 * (min (preambleSlots c) count / 2) = preambleSlots c := by omega
    rw [e] at h ⊢
    rw [if_pos (by omega), ledSymbols_getElem _ (by omega), hcol, fillSymbol, if_neg (by omega), if_pos (by omega),
      Nat.add_sub_add_left]
    rfl

theorem afterData_outside {start count : Nat} {c n : Int} {s : State} {j : Nat}
    (hj : j < start ∨ start + dataSlots c n count ≤ j) :
    Memory.read (afterData start count c n s).buf j = Memory.read s.buf j := by
  have eb : (afterData start count c n s).buf = Memory.writeList (Memory.writeList s.buf start
      (List.replicate (2 * (min (preambleSlots c) count / 2)) zeroSymbol)) (start + 2 * (min (preambleSlots c) count / 2))
      (ledSymbols (ledsWritten c n count) (afterPreamble start (min (preambleSlots c) count / 2) c s)) := rfl
  simp only [dataSlots] at hj
  rw [eb, Memory.read_writeList_outside (by rw [ledSymbols_length]; omega),
    Memory.read_writeList_outside (by rw [List.length_replicate]; omega)]

theorem pairs_eq (c : Int) (count : Nat) : min (preambleSlots c) count / 2 = min (-c).toNat (count / 2) := by
  simp only [preambleSlots]; omega

theorem ledsWritten_eq (c n : Int) (count : Nat) :
    ledsWritten c n count = min (n - max c 0).toNat ((count - 2 * (-c).toNat) / 6) := by
  simp only [ledsWritten, preambleSlots, ledSlots]; omega

theorem dataSlots_eq (c n : Int) (count : Nat) : dataSlots c n count =
    2 * min (-c).toNat (count / 2) + 6 * min (n - max c 0).toNat ((count - 2 * (-c).toNat) / 6) := by
  rw [dataSlots, pairs_eq, ledsWritten_eq]

theorem cursorAfterData_eq (c n : Int) (count : Nat) : cursorAfterData c n count =
    c + (min (-c).toNat (count / 2) + min (n - max c 0).toNat ((count - 2 * (-c).toNat) / 6) : Nat) := by
  rw [cursorAfterData, pairs_eq, ledsWritten_eq]

/-- When phase 1 does not overrun, the groups fit unless phase 2 overruns. -/
theorem groupsFit_iff {c n : Int} {count k1 k2 : Nat} (h1 : k1 = min (-c).toNat (count / 2))
    (h2 : k2 = min (n - max c 0).toNat ((count - 2 * (-c).toNat) / 6)) (hA : ¬ (k1 < (-c).toNat ∧ 2 * k1 ≠ count)) :
    groupsFit c n count ↔ ¬ (k2 < (n - (c + k1)).toNat ∧ 2 * k1 + 6 * k2 ≠ count) := by
  simp only [groupsFit, preambleSlots, ledSlots]
  rcases Nat.lt_or_ge k1 (-c).toNat with h | h
  · have e1 : 2 * k1 = count := by omega
    have e2 : k2 = 0 := by omega
    subst e2
    constructor <;> intro <;> omega
  · obtain ⟨b, hb⟩ : ∃ b, b = (n - max c 0).toNat := ⟨_, rfl⟩
    have e1 : (n - (c + k1)).toNat = b := by omega
    have e2 : (-c).toNat = k1 := by omega
    rw [← hb] at h2 ⊢
    rw [e2] at h1 h2 ⊢
    rw [e1]
    have e3 : 2 * k1 ≤ count := by omega
    clear e1 e2 hb h hA h1
    constructor
    · rintro (h | h | h) <;> omega
    · intro h
      by_cases h' : k2 < b
      · right; left; omega
      · right; right; omega

/-- The three phases in closed form: an overrun in phase 1, an overrun in phase 2, or the padding. -/
theorem fillSegment_eq {start count : Nat} (closing : Bool) {c n : Int} {s : State} (hin : start + count ≤ s.cfg.c)
    (hc : s.cursor = some c) (hn : s.ledCount = some n) :
    fillSegment start count closing s =
      if groupsFit c n count then
        .go (fillPadding n (start + count) closing (start + dataSlots c n count) (cursorAfterData c n count)
          (afterData start count c n s))
      else .raised (.segmentOverrun (start + dataSlots c n count) (if count < preambleSlots c then 2 else 6))
        (afterData start count c n s) := by
  obtain ⟨k1, hk1⟩ : ∃ k1, k1 = min (preambleSlots c) count / 2 := ⟨_, rfl⟩
  obtain ⟨k2, hk2⟩ : ∃ k2, k2 = ledsWritten c n count := ⟨_, rfl⟩
  have g1 : k1 = min (-c).toNat ((start + count - start) / 2) := by rw [hk1]; simp only [preambleSlots]; omega
  have e1 := fillPreamble_eq (fin := start + count) (fuel := count) hc (by omega) (by omega) g1
  have ed : dataSlots c n count = 2 * k1 + 6 * k2 := by rw [hk1, hk2]; rfl
  have ea : afterData start count c n s = afterLeds (start + 2 * k1) k2 (c + k1) (afterPreamble start k1 c s) := by
    rw [hk1, hk2]; rfl
  have ec : cursorAfterData c n count = c + k1 + k2 := by rw [hk1, hk2, cursorAfterData]; push_cast; ring
  have h2 : k2 = min (ledSlots c n) (count - preambleSlots c) / 6 := hk2
  simp only [fillSegment, Config.segmentInside, hin, decide_true, if_true, hc, hn, fillPhases, e1]
  rw [ed, ea, ec]
  by_cases hA : k1 < (-c).toNat ∧ start + 2 * k1 ≠ start + count
  · have hk0 : k2 = 0 := by rw [h2]; simp only [preambleSlots] at *; omega
    have hz : afterLeds (start + 2 * k1) 0 (c + k1) (afterPreamble start k1 c s) = afterPreamble start k1 c s :=
      afterLeds_zero rfl
    rw [if_pos hA, if_neg (by simp only [groupsFit, preambleSlots, ledSlots] at *; omega), hk0, hz, if_pos (by
      simp only [preambleSlots] at *; omega)]
    rfl
  · have g2 : k2 = min (n - (c + k1)).toNat ((start + count - (start + 2 * k1)) / 6) := by
      rw [h2]; simp only [preambleSlots, ledSlots] at *; omega
    have e2 := fillLeds_eq (s := afterPreamble start k1 c s) (n := n) (fin := start + count) (fuel := count)
      (p := start + 2 * k1) (c := c + k1) rfl (by omega) (by omega) (by omega) g2
    rw [if_neg hA]
    simp only [e2, Nat.add_assoc]
    have hiff := groupsFit_iff (c := c) (n := n) (count := count) (k1 := k1) (k2 := k2) (hk1.trans (pairs_eq c count))
      (hk2.trans (ledsWritten_eq c n count)) (fun h => hA ⟨h.1, fun e => h.2 (Nat.add_left_cancel e)⟩)
    by_cases hB : k2 < (n - (c + k1)).toNat ∧ start + (2 * k1 + 6 * k2) ≠ start + count
    · rw [if_pos hB, if_neg (fun h => hiff.1 h ⟨hB.1, fun e => hB.2 (by rw [e])⟩), if_neg (by simp only [preambleSlots]; omega)]
    · rw [if_neg hB, if_pos (hiff.2 fun h => hB ⟨h.1, fun e => h.2 (Nat.add_left_cancel e)⟩)]

/-- The call reaches phase 3: slots are left when the data is written (R95). -/
abbrev entersPadding (c n : Int) (count : Nat) : Prop := preambleSlots c + ledSlots c n < count

/-- What a `FILL` whose groups fit leaves. -/
structure Fits (start count : Nat) (closing : Bool) (c n : Int) (s t : State) : Prop where
  filled : Filled start (start + count) s t
  slots : ∀ j, j < count → Memory.read t.buf (start + j) = some (fillSymbol s c n j)
  cursor : t.cursor = some (if entersPadding c n count ∧ closing = true ∧ cursorAfterData c n count = n then n + 1
    else cursorAfterData c n count)
  done : t.done = (s.done || decide (entersPadding c n count ∧
    ((closing = true ∧ cursorAfterData c n count = n) ∨ cursorAfterData c n count = n + 1)))
  circ : t.circ = (s.circ && !decide (entersPadding c n count ∧ closing = true ∧ cursorAfterData c n count = n))
  calls : t.calls = s.calls ++ (List.range (ledsWritten c n count)).map (fun j : Nat => max c 0 + (j : Int))
  colours : ∀ k, t.nextColour k = s.nextColour (ledsWritten c n count + k)

/-- If the groups fit and the data leaves slots over, all of the data is written. -/
theorem data_done {c n : Int} {count : Nat} (hg : groupsFit c n count) (h : dataSlots c n count ≠ count) :
    n ≤ cursorAfterData c n count ∧ entersPadding c n count := by
  rw [dataSlots_eq] at h
  rw [cursorAfterData_eq]
  simp only [groupsFit, preambleSlots, ledSlots, entersPadding] at hg ⊢
  obtain ⟨a, ha⟩ : ∃ a, a = (-c).toNat := ⟨_, rfl⟩
  obtain ⟨b, hb⟩ : ∃ b, b = (n - max c 0).toNat := ⟨_, rfl⟩
  rw [← ha, ← hb] at hg h ⊢
  rcases hg with hg | hg | hg
  · omega
  · have : 2 * a + 6 * b < count := by
      by_contra hlt
      have : min b ((count - 2 * a) / 6) = (count - 2 * a) / 6 := by omega
      omega
    omega
  · omega

/-- If the data fills the segment, phase 3 is not entered. -/
theorem not_entersPadding {c n : Int} {count : Nat} (h : dataSlots c n count = count) : ¬ entersPadding c n count := by
  rw [dataSlots_eq] at h
  simp only [entersPadding, preambleSlots, ledSlots]
  omega

/-- `FILL` when every group it starts fits (R93 to R99). -/
theorem fillSegment_fits {start count : Nat} (closing : Bool) {c n : Int} {s : State} (hin : start + count ≤ s.cfg.c)
    (hc : s.cursor = some c) (hn : s.ledCount = some n) (hg : groupsFit c n count) :
    ∃ t, fillSegment start count closing s = .go t ∧ Fits start count closing c n s t := by
  have hfill := fillSegment_filled start count closing s
  rw [fillSegment_eq closing hin hc hn, if_pos hg] at hfill ⊢
  refine ⟨_, rfl, ?_⟩
  have hle := dataSlots_le c n count
  by_cases hfin : dataSlots c n count = count
  · have hne := not_entersPadding hfin
    rw [fillPadding_skipped closing (by omega)] at hfill ⊢
    refine ⟨hfill, fun j hj => afterData_read (by omega), ?_, ?_, ?_, afterData_calls _ _ _ _ _,
      afterData_nextColour _ _ _ _ _⟩
    · rw [afterData_cursor, if_neg (fun h => hne h.1)]
    · rw [decide_eq_false (fun h => hne h.1), Bool.or_false]; rfl
    · rw [decide_eq_false (fun h => hne h.1), Bool.not_false, Bool.and_true]; rfl
  · obtain ⟨h1, h2⟩ := data_done hg hfin
    rw [fillPadding_entered closing (afterData_cursor _ _ _ _ _) (by omega) h1] at hfill ⊢
    refine ⟨hfill, fun j hj => ?_, ?_, ?_, ?_, afterData_calls _ _ _ _ _, afterData_nextColour _ _ _ _ _⟩
    · show Memory.read (Memory.writeList (afterData start count c n s).buf _ _) _ = _
      rw [Memory.read_writeList, List.length_replicate]
      rcases lt_or_ge j (dataSlots c n count) with h | h
      · rw [if_neg (by omega)]; exact afterData_read h
      · have hd : preambleSlots c + ledSlots c n ≤ j := by
          rw [dataSlots_eq] at h
          simp only [entersPadding, preambleSlots, ledSlots] at h2 ⊢
          omega
        rw [if_pos (by omega), List.getElem?_replicate, if_pos (by omega), fillSymbol, if_neg (by omega),
          if_neg (by omega)]
    · show some _ = some _
      simp only [h2, true_and]
    · show (s.done || _) = _
      simp only [h2, true_and]
    · show (s.circ && _) = _
      simp only [h2, true_and, Bool.decide_and, Bool.decide_eq_true]

/-- `FILL` when a group does not fit (R100): the groups before it stay written, nothing of it is. -/
theorem fillSegment_overruns {start count : Nat} (closing : Bool) {c n : Int} {s : State} (hin : start + count ≤ s.cfg.c)
    (hc : s.cursor = some c) (hn : s.ledCount = some n) (hg : ¬ groupsFit c n count) :
    fillSegment start count closing s =
      .raised (.segmentOverrun (start + dataSlots c n count) (if count < preambleSlots c then 2 else 6))
        (afterData start count c n s) := by
  rw [fillSegment_eq closing hin hc hn, if_neg hg]

end Sys2Proof.Machine
end

