-- ==== Sys2Proof/Laws/Handler.lean ====
section
/-! SUPPORT. A `FILL` of whole groups in a run, and what one `SERVICE` can do, said once (spec/41_segment_filler.md R100,
spec/43_completion_handler.md R125 to R131). -/

namespace Sys2Proof.Machine

/-- A call of whole groups from a cursor on a group boundary fits (R100). -/
theorem groupsFit_aligned {c : Int} {count : Nat} (n : Int) (hm : count % 6 = 0) (ha : c < 0 → c % 3 = 0) :
    groupsFit c n count := by
  simp only [groupsFit, preambleSlots, ledSlots]; omega

/-- The cursor after the data of such a call: forward, still on a boundary, at most `n` when it began there. -/
theorem cursorAfterData_aligned {c : Int} {count : Nat} (n : Int) (hm : count % 6 = 0) (ha : c < 0 → c % 3 = 0) :
    c ≤ cursorAfterData c n count ∧ (cursorAfterData c n count < 0 → cursorAfterData c n count % 3 = 0) ∧
    (0 ≤ n → c ≤ n → cursorAfterData c n count ≤ n) ∧ (n ≤ c → 0 ≤ c → cursorAfterData c n count = c) := by
  rw [cursorAfterData_eq]
  refine ⟨by omega, fun h => by omega, fun h h' => by omega, fun h h' => by omega⟩

/-- What a call of whole groups does to the registers of a frame. -/
structure Advances (n c c' : Int) (s t : State) : Prop where
  cursor : t.cursor = some c'
  forward : c ≤ c'
  aligned : c' < 0 → c' % 3 = 0
  high : 0 ≤ n → c ≤ n + 1 → c' ≤ n + 1
  terminal : 0 ≤ n → c ≤ n + 1 → (c = n + 1 ↔ s.done = true) → (c' = n + 1 ↔ t.done = true)
  opposite : 0 ≤ n → c ≤ n + 1 → (c = n + 1 ↔ s.done = true) → s.circ = (!s.done) → t.circ = !t.done

theorem Advances.trans {n c d e : Int} {s t u : State} (h1 : Advances n c d s t) (h2 : Advances n d e t u) :
    Advances n c e s u where
  cursor := h2.cursor
  forward := h1.forward.trans h2.forward
  aligned := h2.aligned
  high h0 h := h2.high h0 (h1.high h0 h)
  terminal h0 h h' := h2.terminal h0 (h1.high h0 h) (h1.terminal h0 h h')
  opposite h0 h h' h'' := h2.opposite h0 (h1.high h0 h) (h1.terminal h0 h h') (h1.opposite h0 h h' h'')

/-- `FILL` on whole groups from a cursor on a group boundary. -/
theorem fillSegment_aligned {start count : Nat} (closing : Bool) {c n : Int} {s : State} (hin : start + count ≤ s.cfg.c)
    (hc : s.cursor = some c) (hn : s.ledCount = some n) (hm : count % 6 = 0) (ha : c < 0 → c % 3 = 0) :
    ∃ t c', fillSegment start count closing s = .go t ∧ Fits start count closing c n s t ∧ Advances n c c' s t := by
  obtain ⟨t, ht, hf⟩ := fillSegment_fits closing hin hc hn (groupsFit_aligned n hm ha)
  obtain ⟨h1, h2, h3, h4⟩ := cursorAfterData_aligned n hm ha
  refine ⟨t, _, ht, hf, hf.cursor, ?_, ?_, ?_, ?_, ?_⟩
  · split_ifs <;> omega
  · split_ifs with h
    · intro hneg
      have : entersPadding c n count := h.1
      simp only [entersPadding, preambleSlots, ledSlots] at this
      have := cursorAfterData_eq c n count
      omega
    · exact h2
  · intro h0 hle; split_ifs <;> omega
  · intro h0 hle hd
    rw [hf.done]
    by_cases hdone : s.done = true
    · rw [hdone]
      have hcn := hd.2 hdone
      rw [h4 (by omega) (by omega), if_neg (by omega)]
      simp [hcn]
    · have hcn : c ≠ n + 1 := fun h => hdone (hd.1 h)
      have hcad := h3 h0 (by omega)
      have hne : cursorAfterData c n count ≠ n + 1 := by omega
      simp only [hdone, hne, or_false, Bool.false_or, decide_eq_true_eq]
      split_ifs with h
      · simp [h]
      · simp [hne, h]
  · intro h0 hle hd hcirc
    rw [hf.done, hf.circ, hcirc]
    by_cases hdone : s.done = true
    · simp [hdone]
    · have hcn : c ≠ n + 1 := fun h => hdone (hd.1 h)
      have hcad := h3 h0 (by omega)
      have hne : cursorAfterData c n count ≠ n + 1 := by omega
      simp [hdone, hne]

theorem Filled.mono {lo hi lo' hi' : Nat} {s t : State} (h : Filled lo hi s t) (h1 : lo' ≤ lo) (h2 : hi ≤ hi') :
    Filled lo' hi' s t :=
  { h with
    outside := fun j hj => h.outside j (by omega)
    listed := fun e he => by
      rcases h.listed e he with h | ⟨h, h', h''⟩
      · exact .inl h
      · exact .inr ⟨by omega, by omega, h''⟩ }

/-- The refill of one half writes that half, whatever the state (R127, R128). -/
theorem refillHalf_filled (half : Half) (found : Bool) (s : State) :
    Filled (s.cfg.halfStart half) (s.cfg.halfStart half + s.cfg.h) s (refillHalf half found s).state := by
  unfold refillHalf
  split_ifs
  · exact fillSegment_filled _ _ _ _
  · exact Filled.refl _ _ _

theorem Flow.andThen_state {lo hi : Nat} {s : State} {fl : Flow} {k : State → Flow} (h : Filled lo hi s fl.state)
    (hk : ∀ t, Filled lo hi s t → Filled lo hi t (k t).state) : Filled lo hi s (fl.andThen k).state := by
  cases fl with
  | go t => exact h.trans (hk t h)
  | raised f t => exact h

/-- The frame of the handler, for every state, with or without a fault (R125). -/
theorem serviceBody_filled (s : State) : Filled 0 (s.cfg.h + s.cfg.h) s.ackEvents (serviceBody s).state := by
  refine Flow.andThen_state ((refillHalf_filled .first s.evh s.ackEvents).mono (Nat.zero_le _) ?_) fun t ht => ?_
  · simp [Config.halfStart]
  · have hc : t.cfg = s.cfg := ht.cfg
    refine (refillHalf_filled .second s.evf t).mono (Nat.zero_le _) ?_
    simp [Config.halfStart, hc]

theorem execService_eq (f : EvFlags) (s : State) : execService f s = (serviceBody s).finish := by
  unfold execService
  cases h : serviceBody s.interruptEntry <;> rw [show serviceBody s = _ from h] <;> rfl

/-- What the refill of one half leaves, under a well-formed configuration. -/
structure Refilled (half : Half) (found : Bool) (n c c' : Int) (s t : State) : Prop where
  advances : Advances n c c' s t
  filled : Filled (s.cfg.halfStart half) (s.cfg.halfStart half + s.cfg.h) s t
  slots : found = true → ∀ j, j < s.cfg.h → ∃ v, Memory.read t.buf (s.cfg.halfStart half + j) = some v
  untouched : found = false → t = s

theorem refillHalf_completes (half : Half) (found : Bool) {c n : Int} {s : State} (ok : s.cfg.Ok)
    (hc : s.cursor = some c) (hn : s.ledCount = some n) (ha : c < 0 → c % 3 = 0) :
    ∃ t c', refillHalf half found s = .go t ∧ Refilled half found n c c' s t := by
  unfold refillHalf
  cases found with
  | false =>
    exact ⟨s, c, rfl, ⟨hc, le_rfl, ha, fun _ h => h, fun _ _ h => h, fun _ _ _ h => h⟩, Filled.refl _ _ _,
      by simp, fun _ => rfl⟩
  | true =>
    obtain ⟨t, c', ht, hf, hadv⟩ := fillSegment_aligned (start := s.cfg.halfStart half) (count := s.cfg.h)
      (s.cfg.closingBit half) (by have := ok.halves; cases half <;> simp only [Config.halfStart] <;> omega) hc hn
      ok.halfGroups ha
    exact ⟨t, c', ht, hadv, hf.filled, fun _ j hj => ⟨_, hf.slots j hj⟩, by simp⟩

/-- The handler completes under a well-formed configuration: which slots it fills, and the registers. -/
theorem serviceBody_completes {c n : Int} {s : State} (ok : s.cfg.Ok) (hc : s.cursor = some c)
    (hn : s.ledCount = some n) (ha : c < 0 → c % 3 = 0) :
    ∃ u t c1 c2, refillHalf .first s.evh s.ackEvents = .go u ∧ refillHalf .second s.evf u = .go t ∧
      serviceBody s = .go t ∧ Refilled .first s.evh n c c1 s.ackEvents u ∧ Refilled .second s.evf n c1 c2 u t := by
  obtain ⟨u, c1, hu, h1⟩ := refillHalf_completes .first s.evh (s := s.ackEvents) ok hc hn ha
  have hcfg : u.cfg = s.cfg := h1.filled.cfg
  obtain ⟨t, c2, ht, h2⟩ := refillHalf_completes .second s.evf (s := u) (by rw [hcfg]; exact ok) h1.advances.cursor
    (h1.filled.ledCount.trans hn) h1.advances.aligned
  exact ⟨u, t, c1, c2, hu, ht, by unfold serviceBody; rw [hu]; exact ht, h1, h2⟩

end Sys2Proof.Machine
end

