-- ==== Sys2Proof/Laws/PerInstr.lean ====
section
/-! SUPPORT. The family RoundTrip: for one operation, decoding its encoding gives it back, with every operand, whatever
follows it (spec/30_encoding.md R69, R70). -/

namespace Sys2Proof.Laws.RoundTrip

/-- Decoding the bytes of `i`, with any bytes after them, gives `i` and those bytes. -/
def Statement (i : Instr) : Prop :=
  ∀ (cfg : Config) (rest : List Byte), i.wf cfg = true → decode cfg (encode cfg i ++ rest) = .ok (i, rest)

theorem init : Statement .init := fun _ _ _ => rfl

theorem start (n : Int) : Statement (.start n) := fun cfg rest h => by
  have hs : selectOp 0x11 = some .start := by decide
  simp only [encode, List.cons_append, decode, hs,
    takeSigned_putSigned cfg 0x11 rest (of_decide_eq_true h)]
  rfl

theorem poll : Statement .poll := fun _ _ _ => rfl

theorem service (f : EvFlags) : Statement (.service f) := fun cfg rest _ => by
  simp only [encode, List.cons_append, List.nil_append, decode, selectOp_service, flags_of_code]

theorem fill (start count : Nat) (closing : Bool) : Statement (.fill start count closing) := fun cfg rest h => by
  simp only [Instr.wf, Bool.and_eq_true, decide_eq_true_eq] at h
  have hs : ∀ b : Bool, selectOp (if b then 0x31 else 0x30) = some .fill := by decide
  have hb : ∀ b : Bool, (if b then 0x31 else 0x30 : Byte).getLsbD 0 = b := by decide
  simp only [encode, List.cons_append, List.append_assoc, decode, hs, hb,
    takeUnsigned_putBytes _ _ h.1, takeUnsigned_putBytes _ _ h.2]
  rfl

theorem enc (n : Nibble) : Statement (.enc n) := fun cfg rest _ => by
  simp only [encode, List.cons_append, List.nil_append, decode, selectOp_enc, low_nibble_of_code]

theorem enc24 (c : Colour) : Statement (.enc24 c) := fun cfg rest _ => by
  have hs : selectOp 0x50 = some .enc24 := by decide
  have hc : c.toNat < 256 ^ 3 := lt_of_lt_of_le c.isLt (by norm_num)
  simp only [encode, List.cons_append, decode, hs, takeUnsigned_putBytes _ _ hc]
  simp [Except.map]

theorem zsym : Statement .zsym := fun _ _ _ => rfl

theorem ack : Statement .ack := fun _ _ _ => rfl

theorem arm : Statement .arm := fun _ _ _ => rfl

theorem disarm : Statement .disarm := fun _ _ _ => rfl

theorem setlen (len : Nat) : Statement (.setlen len) := fun cfg rest h => by
  have hs : selectOp 0x63 = some .setlen := by decide
  simp only [encode, List.cons_append, decode, hs, takeUnsigned_putBytes _ _ (of_decide_eq_true h)]
  rfl

theorem drain : Statement .drain := fun _ _ _ => rfl

theorem getcolor (i : Int) : Statement (.getcolor i) := fun cfg rest h => by
  have hs : selectOp 0x80 = some .getcolor := by decide
  simp only [encode, List.cons_append, decode, hs,
    takeSigned_putSigned cfg 0x80 rest (of_decide_eq_true h)]
  rfl

end Sys2Proof.Laws.RoundTrip
end

