-- ==== Sys2Proof/Laws/Step.lean ====
section
/-! SUPPORT. What `step` and `agentStep` can do, said once. -/

namespace Sys2Proof.Machine

/-- A step that answers a next state has run the operation of `bench`, or an enabled step of `trace`. -/
theorem step_cases {s t : State} (h : step s = .next t) :
    s.cfg.firstFailing = none ∧ s.fault = none ∧
    ((∃ i rest, s.bench ≠ [] ∧ decode s.cfg s.bench = .ok (i, rest) ∧ exec i { s with bench := rest } = .next t) ∨
     (∃ i rest, s.bench = [] ∧ decode s.cfg s.trace = .ok (i, rest) ∧ enabled i s = true ∧
        exec i { s with trace := rest } = .next t)) := by
  unfold step at h
  split at h
  · cases h
  · rename_i hc
    split at h
    · cases h
    · rename_i hf
      refine ⟨hc, hf, ?_⟩
      unfold fetch at h
      split at h
      · cases h
      · rename_i i u hfe
        split_ifs at hfe with hb
        · right
          unfold fetchScheduled at hfe
          split at hfe
          · cases hfe
          · rename_i j rest hd
            split_ifs at hfe with he
            cases hfe
            exact ⟨_, rest, by simpa using hb, hd, he, h⟩
        · left
          unfold fetchUnit at hfe
          split at hfe
          · cases hfe
          · rename_i j rest hd
            cases hfe
            exact ⟨_, rest, by simpa using hb, hd, h⟩

/-- A step of an agent that answers a next state has run an enabled operation. -/
theorem agentStep_cases {i : Instr} {s t : State} (h : agentStep i s = .next t) :
    s.fault = none ∧ enabled i s = true ∧ exec i s = .next t := by
  unfold agentStep at h
  split at h
  · cases h
  · rename_i hf
    split_ifs at h with he
    exact ⟨hf, he, h⟩

/-- An enabled operation as a step of its agent. -/
theorem agentStep_eq {i : Instr} {s : State} (hf : s.fault = none) (he : enabled i s = true) :
    agentStep i s = exec i s := by
  simp [agentStep, hf, he]

/-- The enabled steps of a state without a fault. -/
theorem enabled_cases {i : Instr} {s : State} (h : enabled i s = true) :
    s.fault = none ∧
    ((i = .drain ∧ 0 < s.rem) ∨
     (i = .service s.evFlags ∧ s.irqen = true ∧ s.pending = true) ∨
     ((i = .init ∨ (∃ n, i = .start n) ∨ i = .poll) ∧ (s.irqen = false ∨ s.pending = false))) := by
  have hf : s.fault = none := by cases i <;> simp_all [enabled]
  cases i <;> simp_all [enabled, State.serviceEnabled, issuedBy, State.idle, Nat.pos_iff_ne_zero]

/-! The loop of R73, one lemma per way it goes on -/

theorem runUntil_stop {stop : State → Bool} {s : State} (h : stop s = true) (fuel : Nat) :
    runUntil stop fuel s = .next s := by
  cases fuel <;> simp [runUntil, h]

theorem runUntil_halt {stop : State → Bool} {s : State} (h : eagerChoice s = none) (fuel : Nat) :
    runUntil stop fuel s = .next s := by
  cases fuel <;> simp [runUntil, h]

theorem runUntil_step {stop : State → Bool} {s t : State} {i : Instr} (hs : stop s = false)
    (hc : eagerChoice s = some i) (ht : agentStep i s = .next t) (fuel : Nat) :
    runUntil stop (fuel + 1) s = runUntil stop fuel t := by
  simp [runUntil, hs, hc, ht]

end Sys2Proof.Machine
end

