-- ==== Sys2Proof/Laws/Window.lean ====
section
/-! SUPPORT. A `FILL` on whole groups writes a window of the logical stream (spec/41_segment_filler.md R103): the slots,
the cursor, the flag and the mode, the calls. -/

namespace Sys2Proof.Machine

/-- The stream is silent in the preamble. -/
theorem streamSymbol_preamble {cfg : Config} {n i : Nat} (f : Nat → Colour) (h : i < 2 * cfg.r.toNat) :
    streamSymbol cfg f n i = zeroSymbol := by
  simp [streamSymbol, h]

/-- The stream carries the sextets of the colours after the preamble. -/
theorem streamSymbol_led {cfg : Config} {n i : Nat} (f : Nat → Colour) (h : ¬ i < 2 * cfg.r.toNat)
    (h' : i < 2 * cfg.r.toNat + 6 * n) :
    streamSymbol cfg f n i = encodeNibble cfg ((f ((i - 2 * cfg.r.toNat) / 6)).nibble ((i - 2 * cfg.r.toNat) % 6)) := by
  simp [streamSymbol, frameSymbols, h, h']

/-- The stream is silent after the last LED. -/
theorem streamSymbol_padding {cfg : Config} {n i : Nat} (f : Nat → Colour) (h : ¬ i < 2 * cfg.r.toNat + 6 * n) :
    streamSymbol cfg f n i = zeroSymbol := by
  simp [streamSymbol, frameSymbols, h]

/-- `cursorAt` in numbers. -/
theorem cursorAt_eq {cfg : Config} (ok : cfg.Ok) (n q : Nat) :
    cursorAt cfg n q = if q < 2 * cfg.r.toNat then (q / 2 : Nat) - (cfg.r.toNat : Int)
      else if q < 2 * cfg.r.toNat + 6 * n then (((q - 2 * cfg.r.toNat) / 6 : Nat) : Int) else n := by
  rw [ok.toNat_r]; rfl

/-- Where a cursor stands: in the preamble, at an LED, or past the last one. -/
abbrev CursorAt (R n q : Nat) (c : Int) : Prop :=
  (q < 2 * R ∧ c = (q / 2 : Nat) - (R : Int)) ∨ (2 * R ≤ q ∧ q < 2 * R + 6 * n ∧ c = ((q - 2 * R) / 6 : Nat)) ∨
  (2 * R + 6 * n ≤ q ∧ (c = n ∨ c = n + 1))

theorem cursorAt_cases {cfg : Config} (ok : cfg.Ok) {n q : Nat} {c : Int}
    (h : c = cursorAt cfg n q ∨ (c = n + 1 ∧ frameSymbols cfg n ≤ q)) : CursorAt cfg.r.toNat n q c := by
  rcases h with h | ⟨h, h'⟩
  · rw [cursorAt_eq ok] at h
    by_cases h1 : q < 2 * cfg.r.toNat
    · rw [if_pos h1] at h; exact .inl ⟨h1, h⟩
    · by_cases h2 : q < 2 * cfg.r.toNat + 6 * n
      · rw [if_neg h1, if_pos h2] at h; exact .inr (.inl ⟨by omega, h2, h⟩)
      · rw [if_neg h1, if_neg h2] at h; exact .inr (.inr ⟨by omega, .inl h⟩)
  · exact .inr (.inr ⟨h', .inr h⟩)

/-- The result of a call that writes stream indices `q` to `q + count - 1` into the slots from `start`. -/
structure Window (f : Nat → Colour) (n q start count : Nat) (closing : Bool) (c : Int) (s t : State) : Prop where
  filled : Filled start (start + count) s t
  slots : ∀ j, j < count → Memory.read t.buf (start + j) = some (streamSymbol s.cfg f n (q + j))
  cursor : t.cursor = some (if c = n + 1 ∨ (closing = true ∧ frameSymbols s.cfg n < q + count) then (n : Int) + 1
    else cursorAt s.cfg n (q + count))
  done : t.done = (s.done || decide (c = n + 1 ∨ (closing = true ∧ frameSymbols s.cfg n < q + count)))
  circ : t.circ = (s.circ && !(closing && decide (frameSymbols s.cfg n < q + count) && decide (c ≠ n + 1)))
  calls : t.calls = s.calls ++ (List.range (ledsBefore s.cfg n (q + count) - ledsBefore s.cfg n q)).map
    (fun j : Nat => ((ledsBefore s.cfg n q + j : Nat) : Int))
  colours : ∀ k, t.nextColour k = f (ledsBefore s.cfg n (q + count) + k)

/-- What the preamble and the LEDs still need, from a cursor that stands at stream index `q`. -/
theorem slots_at {R n q : Nat} {c : Int} (hR : R % 3 = 0) (hq : q % 6 = 0) (h : CursorAt R n q c) :
    preambleSlots c = 2 * R - q ∧ ledSlots c n = 2 * R + 6 * n - max q (2 * R) := by
  simp only [preambleSlots, ledSlots]
  rcases h with h | h | h <;> omega

/-- Every call of whole groups from such a cursor fits (R100). -/
theorem groupsFit_at {R n q count : Nat} {c : Int} (hR : R % 3 = 0) (hq : q % 6 = 0) (hm : count % 6 = 0)
    (h : CursorAt R n q c) : groupsFit c n count := by
  obtain ⟨h1, h2⟩ := slots_at hR hq h
  simp only [groupsFit, h1, h2]
  omega

/-- The cursor after the data of such a call. -/
theorem cursorAfterData_at {R n q count : Nat} {c : Int} (hR : R % 3 = 0) (hq : q % 6 = 0) (hm : count % 6 = 0)
    (h : CursorAt R n q c) (hc : c ≠ n + 1) :
    cursorAfterData c n count = if q + count < 2 * R then ((q + count) / 2 : Nat) - (R : Int)
      else if q + count < 2 * R + 6 * n then (((q + count - 2 * R) / 6 : Nat) : Int) else n := by
  rw [cursorAfterData_eq]
  obtain ⟨r, rfl⟩ : ∃ r, R = 3 * r := ⟨R / 3, by omega⟩
  obtain ⟨p, rfl⟩ : ∃ p, q = 6 * p := ⟨q / 6, by omega⟩
  obtain ⟨m, rfl⟩ : ∃ m, count = 6 * m := ⟨count / 6, by omega⟩
  clear hR hq hm
  rcases h with ⟨h, rfl⟩ | ⟨h, h', rfl⟩ | ⟨h, h'⟩
  · obtain ⟨d, rfl⟩ : ∃ d, r = p + d := ⟨r - p, by omega⟩
    have e1 : (-((6 * p / 2 : Nat) - ((3 * (p + d) : Nat) : Int))).toNat = 3 * d := by omega
    have e2 : ((n : Int) - max ((6 * p / 2 : Nat) - ((3 * (p + d) : Nat) : Int)) 0).toNat = n := by omega
    have e3 : (6 * p + 6 * m) / 2 = 3 * p + 3 * m := by omega
    have e4 : (6 * p + 6 * m - 2 * (3 * (p + d))) / 6 = m - d := by omega
    have e5 : (6 * m - 2 * (3 * d)) / 6 = m - d := by omega
    have e6 : 6 * m / 2 = 3 * m := by omega
    have e7 : 6 * p / 2 = 3 * p := by omega
    rw [e1, e2, e3, e4, e5, e6, e7]
    clear e1 e2 e3 e4 e5 e6 e7
    split_ifs <;> omega
  · obtain ⟨e, rfl⟩ : ∃ e, p = r + e := ⟨p - r, by omega⟩
    have e0 : (6 * (r + e) - 2 * (3 * r)) / 6 = e := by omega
    have e1 : (-((e : Nat) : Int)).toNat = 0 := by omega
    have e2 : ((n : Int) - max ((e : Nat) : Int) 0).toNat = n - e := by omega
    have e4 : (6 * (r + e) + 6 * m - 2 * (3 * r)) / 6 = e + m := by omega
    have e5 : (6 * m - 2 * 0) / 6 = m := by omega
    rw [e0, e1, e2, e4, e5]
    clear e0 e1 e2 e4 e5
    split_ifs <;> omega
  · obtain rfl : c = n := by omega
    have e1 : (-(n : Int)).toNat = 0 := by omega
    have e2 : ((n : Int) - max (n : Int) 0).toNat = 0 := by omega
    rw [e1, e2, if_neg (by omega), if_neg (by omega)]
    omega

/-- The LEDs such a call pulls (R153). -/
theorem ledsBefore_add {R n q count : Nat} {c : Int} (hR : R % 3 = 0) (hq : q % 6 = 0) (h : CursorAt R n q c) :
    min n ((q - 2 * R) / 6) + ledsWritten c n count = min n ((q + count - 2 * R) / 6) := by
  obtain ⟨h1, h2⟩ := slots_at hR hq h
  simp only [ledsWritten, h1, h2]
  clear h1 h2 h
  rcases Nat.lt_or_ge q (2 * R) with h | h
  · have e : max q (2 * R) = 2 * R := by omega
    have e2 : (q - 2 * R) / 6 = 0 := by omega
    rw [e, e2]
    omega
  · obtain ⟨e, rfl⟩ : ∃ e, q = 2 * R + 6 * e := ⟨(q - 2 * R) / 6, by omega⟩
    have e1 : max (2 * R + 6 * e) (2 * R) = 2 * R + 6 * e := by omega
    have e2 : (2 * R + 6 * e - 2 * R) / 6 = e := by omega
    rw [e1, e2]
    omega

/-- The first LED such a call pulls is the next one. -/
theorem ledsBefore_cursor {R n q count : Nat} {c : Int} (hR : R % 3 = 0) (hq : q % 6 = 0) (h : CursorAt R n q c)
    (hw : 0 < ledsWritten c n count) : max c 0 = (min n ((q - 2 * R) / 6) : Nat) := by
  rw [ledsWritten_eq] at hw
  rcases h with h | h | h <;> omega

/-- What such a call writes is the stream. -/
theorem fillSymbol_at {f : Nat → Colour} {s : State} {R n q : Nat} {c : Int} (hr : s.cfg.r.toNat = R) (hR : R % 3 = 0)
    (hq : q % 6 = 0) (h : CursorAt R n q c) (hf : ∀ k, s.nextColour k = f (ledsBefore s.cfg n q + k)) (j : Nat) :
    fillSymbol s c n j = streamSymbol s.cfg f n (q + j) := by
  obtain ⟨h1, h2⟩ := slots_at hR hq h
  clear h
  rw [fillSymbol, h1, h2]
  by_cases a1 : q + j < 2 * R
  · rw [if_pos (by omega), streamSymbol_preamble f (by omega)]
  · rw [if_neg (by omega)]
    by_cases a2 : q + j < 2 * R + 6 * n
    · rw [if_pos (by omega), hf, streamSymbol_led f (by omega) (by omega), hr]
      have b1 : ledsBefore s.cfg n q + (j - (2 * R - q)) / 6 = (q + j - 2 * R) / 6 := by
        simp only [ledsBefore, hr]; omega
      have b2 : (j - (2 * R - q)) % 6 = (q + j - 2 * R) % 6 := by omega
      rw [b1, b2]
    · rw [if_neg (by omega), streamSymbol_padding f (by omega)]

/-- `FILL` on whole groups, from a cursor that stands at stream index `q` or past the frame (R99, R103). -/
theorem fillSegment_window {f : Nat → Colour} {n q start count : Nat} (closing : Bool) {c : Int} {s : State}
    (ok : s.cfg.Ok) (hq : q % 6 = 0) (hm : count % 6 = 0) (hpos : 0 < count) (hin : start + count ≤ s.cfg.c)
    (hc : s.cursor = some c) (hn : s.ledCount = some (n : Int))
    (hcur : c = cursorAt s.cfg n q ∨ (c = n + 1 ∧ frameSymbols s.cfg n ≤ q))
    (hf : ∀ k, s.nextColour k = f (ledsBefore s.cfg n q + k)) :
    ∃ t, fillSegment start count closing s = .go t ∧ Window f n q start count closing c s t := by
  obtain ⟨R, hR⟩ : ∃ R, s.cfg.r.toNat = R := ⟨_, rfl⟩
  have hR3 : R % 3 = 0 := by have := ok.preGroups; have := ok.toNat_r; omega
  have hC := cursorAt_cases ok hcur
  rw [hR] at hC
  obtain ⟨t, ht, hw⟩ := fillSegment_fits closing hin hc hn (groupsFit_at hR3 hq hm hC)
  have hl : ledsBefore s.cfg n q + ledsWritten c n count = ledsBefore s.cfg n (q + count) := by
    simp only [ledsBefore, hR]; exact ledsBefore_add hR3 hq hC
  have hT : frameSymbols s.cfg n = 2 * R + 6 * n := by rw [← hR]; rfl
  have hent : entersPadding c n count ↔ frameSymbols s.cfg n < q + count := by
    obtain ⟨h1, h2⟩ := slots_at hR3 hq hC
    simp only [entersPadding, h1, h2, hT]; omega
  have hcad : c ≠ n + 1 → cursorAfterData c n count = cursorAt s.cfg n (q + count) := fun h => by
    rw [cursorAt_eq ok, hR, cursorAfterData_at hR3 hq hm hC h]
  have hcad' : c = n + 1 → cursorAfterData c n count = n + 1 := fun h => by
    subst h
    rw [cursorAfterData_eq]; omega
  have hend : c = n + 1 → frameSymbols s.cfg n < q + count := fun h => by
    rw [hT]; clear hent hl hcad hcad' hw hf hcur; omega
  have hlast : frameSymbols s.cfg n < q + count → cursorAt s.cfg n (q + count) = n := fun h => by
    rw [hT] at h
    rw [cursorAt_eq ok, hR, if_neg (by omega), if_neg (by omega)]
  refine ⟨t, ht, hw.filled, fun j hj => ?_, ?_, ?_, ?_, ?_, fun k => ?_⟩
  · rw [hw.slots j hj, fillSymbol_at hR hR3 hq hC hf]
  · rw [hw.cursor]
    simp only [hent]
    congr 1
    by_cases hc1 : c = n + 1
    · rw [hcad' hc1, if_neg (by omega), if_pos (.inl hc1)]
    · rw [hcad hc1]
      by_cases hF : frameSymbols s.cfg n < q + count
      · rw [hlast hF]; simp only [hF, hc1, and_true, true_and, false_or]
      · rw [if_neg (fun h => hF h.1), if_neg (by tauto)]
  · rw [hw.done]
    simp only [hent]
    congr 1
    apply decide_eq_decide.2
    by_cases hc1 : c = n + 1
    · exact ⟨fun _ => .inl hc1, fun _ => ⟨hend hc1, .inr (hcad' hc1)⟩⟩
    · rw [hcad hc1]
      by_cases hF : frameSymbols s.cfg n < q + count
      · rw [hlast hF]; simp [hF, hc1]
      · simp [hF, hc1]
  · rw [hw.circ]
    simp only [hent]
    congr 2
    by_cases hc1 : c = n + 1
    · rw [hcad' hc1]; simp [hc1]
    · rw [hcad hc1]
      by_cases hF : frameSymbols s.cfg n < q + count
      · rw [hlast hF]; simp [hF, hc1]
      · simp [hF]
  · rw [hw.calls, ← hl, Nat.add_sub_cancel_left]
    congr 1
    apply List.map_congr_left
    intro j hj
    have hj := List.mem_range.1 hj
    rw [ledsBefore_cursor hR3 hq hC (Nat.lt_of_le_of_lt (Nat.zero_le j) hj)]
    simp only [ledsBefore, hR]
    push_cast
    rfl
  · rw [hw.colours, hf, ← hl, Nat.add_assoc]

end Sys2Proof.Machine
end

