-- ==== Sys2Proof/Laws/Transfer.lean ====
section
/-! SUPPORT. What `START` can do, said once (spec/42_transfer_controller.md R112, R113), and how an operation ends. -/

namespace Sys2Proof.Machine

/-- An operation that ends answers the state it ends in, with a fault recorded or as it was. -/
theorem Flow.finish_cases {x : Flow} {t : State} (h : x.finish = .next t) : ∃ f, t = { x.state with fault := f } := by
  cases x <;> cases h
  · exact ⟨_, rfl⟩
  · exact ⟨_, rfl⟩

/-- The range of R112 as the rule writes it. -/
theorem ledCountOk_iff {cfg : Config} (h : 1 ≤ cfg.cw) (n : Int) :
    cfg.ledCountOk n = true ↔ 0 ≤ n ∧ n ≤ 2 ^ (cfg.cw - 1) - 2 := by
  obtain ⟨k, hk⟩ : ∃ k, cfg.cw = k + 1 := ⟨cfg.cw - 1, by omega⟩
  have e : (2 : Int) ^ (k + 1) = 2 * 2 ^ k := by ring
  simp only [Config.ledCountOk, hk, Nat.add_sub_cancel, e, Bool.and_eq_true, decide_eq_true_eq]
  omega

/-- The four checks pass exactly when their conditions hold. -/
theorem startFault_none {n : Int} {s : State} :
    startFault n s = none ↔ s.inited = true ∧ s.done = true ∧ s.rem = 0 ∧ s.cfg.ledCountOk n = true := by
  unfold startFault
  split_ifs <;> simp_all

/-- A `START` that passes its checks, under a well-formed configuration: its `FILL` writes the first `C` symbols of the
logical stream. -/
theorem execStart_window {s : State} {n : Nat} (ok : s.cfg.Ok) (hs : startFault n s = none) :
    ∃ u, execStart n s = .next (u.armCircular.setLength s.cfg.c) ∧
      Window s.nextColour n 0 0 s.cfg.c false (-s.cfg.r) (s.beginFrame n) u := by
  have h := ok.halves; have h1 := ok.halfPos; have h2 := ok.halfGroups; have h3 := ok.preNonneg; have h4 := ok.sizing
  have hcur : -s.cfg.r = cursorAt s.cfg n 0 := by
    rw [cursorAt_eq ok, if_pos (by omega), ok.toNat_r]; simp
  obtain ⟨u, hu, hw⟩ := fillSegment_window (f := s.nextColour) (n := n) (q := 0) (start := 0) (count := s.cfg.c)
    (c := -s.cfg.r) (s := s.beginFrame n) false ok (by omega) (by omega) (by omega)
    (by show 0 + s.cfg.c ≤ s.cfg.c; omega) rfl rfl (.inl hcur)
    (fun k => by show s.nextColour k = _; congr 1; simp [ledsBefore])
  refine ⟨u, ?_, hw⟩
  have hc : u.cfg = s.cfg := hw.filled.cfg
  simp only [execStart, hs, hu, Flow.andThen, Flow.finish, hc]

end Sys2Proof.Machine
end

