-- ==== Sys2Proof/Tests/Slice0.lean ====
section
/-! SUPPORT. Tests against the vectors of spec/95 (V<n> names the vector an expected result is taken from) and the code map of
spec/30_encoding.md R70, with words written out by hand; and the witnesses: a concrete state and operands that meet all the
hypotheses of a statement together. -/

namespace Sys2Proof.Tests

open Sys2Proof Sys2Proof.Machine

/-! Helpers -/

/-- The configuration of spec/95 sections 2.2, 2.4 and 2.5: `C = 12`, `R = 3`. -/
def small : Config := { Config.initial with c := 12, r := 3 }

/-- The next state of an outcome. -/
def after : Host.Outcome State Fault Refusal → Option State
  | .next s => some s
  | .fault _ => none
  | .refused _ => none

/-- The refusal of an outcome. -/
def refusal : Host.Outcome State Fault Refusal → Option Refusal
  | .next _ => none
  | .fault _ => none
  | .refused r => some r

/-- A state of section 2.2: streaming, armed, with a cursor and an LED count; the three colours to come. -/
def filling (c n : Int) : State :=
  { State.resetWith small with
    cursor := some c, ledCount := some n, done := false, circ := true, irqen := true, inited := true
    answers := [0x123456, 0xABCDEF, 0x00FF80] }

/-- The registers a `FILL` vector lists: `CURSOR`, `DONE`, `CIRC`. -/
def regs (o : Host.Outcome State Fault Refusal) : Option (Option Int × Bool × Bool) :=
  (after o).map fun t => (t.cursor, t.done, t.circ)

/-- The calls made. -/
def calls (o : Host.Outcome State Fault Refusal) : Option (List Int) := (after o).map (·.calls)

/-- The fault recorded by a step. -/
def raised (o : Host.Outcome State Fault Refusal) : Option Fault := (after o).bind (·.fault)

/-- The operation decoded. -/
def decoded (cfg : Config) (bs : List Byte) : Option Instr := (decode cfg bs).toOption.map (·.1)

/-- The slots of the buffer. -/
def slots (o : Host.Outcome State Fault Refusal) : Option (List (Option Symbol)) :=
  (after o).map fun t => Memory.readRange t.buf 0 t.cfg.c

/-- A run of slots that hold one symbol. -/
def run (n : Nat) (v : Symbol) : List (Option Symbol) := List.replicate n (some v)

/-- A run of slots that hold no value. -/
def gap (n : Nat) : List (Option Symbol) := List.replicate n none

/-- A buffer full of zero symbols. -/
def zeros (n : Nat) : Memory := (List.range n).map fun i => (i, 0)

/-- A state right after `INIT` (V51), under a configuration. -/
def ready (cfg : Config) : State := { State.resetWith cfg with irqen := true, inited := true }

/-- A frame of no LEDs right after `START 0`: all silence, the cursor waiting at 0. -/
def begun : State :=
  { ready small with
    buf := zeros 12, cursor := some 0, ledCount := some 0, done := false, circ := true, len := 12, rem := 12 }

/-- The same frame after `l` symbols, with `r` slots left in the lap and the event flags given. -/
def drained (l r : Nat) (h f : Bool) : State := { begun with wire := List.replicate l 0, rem := r, evh := h, evf := f }

/-- The same frame over. -/
def finished : State :=
  { drained 24 0 false false with cursor := some 1, done := true, circ := false }

/-! Well-formedness: an ill-formed term for each check (R69, R70) -/

theorem test_wf_start_too_large : (Instr.start 2147483648).wf Config.initial = false := by decide
theorem test_wf_start_too_small : (Instr.start (-2147483649)).wf Config.initial = false := by decide
theorem test_wf_fill_start_too_wide : (Instr.fill 256 0 false).wf Config.initial = false := by decide
theorem test_wf_fill_count_too_wide : (Instr.fill 0 256 true).wf Config.initial = false := by decide
theorem test_wf_setlen_too_wide : (Instr.setlen 256).wf Config.initial = false := by decide
theorem test_wf_getcolor_too_small : (Instr.getcolor (-2147483649)).wf Config.initial = false := by decide
theorem witness_decode_of_encode :
    (Instr.start 2147483647).wf Config.initial = true ∧ (Instr.start (-2147483648)).wf Config.initial = true ∧
    (Instr.fill 255 255 true).wf Config.initial = true ∧ (Instr.setlen 255).wf Config.initial = true ∧
    (Instr.getcolor (-2147483648)).wf Config.initial = true := by decide

/-! Configuration checks (V95 to V100) -/

theorem test_config_v95 : ({ Config.initial with c := 16 } : Config).firstFailing = some .cfg2 := by decide
theorem test_config_v96 : ({ Config.initial with r := 5 } : Config).firstFailing = some .cfg3 := by decide
theorem test_config_v97 : ({ Config.initial with r := 3 } : Config).firstFailing = some .cfg6 := by decide
theorem test_config_v98 : ({ Config.initial with c := 13 } : Config).firstFailing = some .cfg1 := by decide
theorem test_config_v99 :
    ({ Config.initial with sym := 0x888E :: Config.defaultSym.tail } : Config).firstFailing = some .cfg4 := by decide
theorem test_config_cfg5 : ({ Config.initial with w := 0 } : Config).passes .cfg5 = false := by decide
theorem test_config_v100 : Config.initial.firstFailing = none ∧ small.firstFailing = none ∧
    ({ Config.initial with r := 12 } : Config).firstFailing = none ∧
    ({ Config.initial with c := 48, r := 12 } : Config).firstFailing = none := by decide
theorem witness_config_refused :
    ({ State.reset with cfg := { Config.initial with c := 16 } } : State).cfg.firstFailing = some .cfg2 ∧
    ({ Config.initial with c := 16, r := 5 } : Config).firstFailing = some .cfg2 := by decide

/-! Decoding: words written out from R70 -/

theorem test_decode_init : decodeTableWord 8 0x10 = some .init := by decide
theorem test_decode_start : decode Config.initial [0x11, 0x00, 0x00, 0x00, 0x01] = .ok (.start 1, []) := by rfl
theorem test_decode_start_negative : decode Config.initial [0x11, 0xFF, 0xFF, 0xFF, 0xFF] = .ok (.start (-1), []) := by rfl
theorem test_decode_poll : decodeTableWord 8 0x12 = some .poll := by decide
theorem test_decode_service : decodeTableWord 8 0x21 = some (.service 0b01) := by decide
theorem test_decode_service_full : decodeTableWord 8 0x22 = some (.service 0b10) := by decide
theorem test_decode_fill : decode Config.initial [0x30, 0x00, 0x18] = .ok (.fill 0 24 false, []) := by rfl
theorem test_decode_fill_closing : decode Config.initial [0x31, 0x0C, 0x0C] = .ok (.fill 12 12 true, []) := by rfl
theorem test_decode_enc : decodeTableWord 8 0x4A = some (.enc 0xA) := by decide
theorem test_decode_enc24 : decode Config.initial [0x50, 0xFF, 0x00, 0x01] = .ok (.enc24 0xFF0001, []) := by rfl
theorem test_decode_zsym : decodeTableWord 8 0x51 = some .zsym := by decide
theorem test_decode_ack : decodeTableWord 8 0x60 = some .ack := by decide
theorem test_decode_arm : decodeTableWord 8 0x61 = some .arm := by decide
theorem test_decode_disarm : decodeTableWord 8 0x62 = some .disarm := by decide
theorem test_decode_setlen : decode Config.initial [0x63, 0x18] = .ok (.setlen 24, []) := by rfl
theorem test_decode_drain : decode Config.initial [0x70, 0x21] = .ok (.drain, [0x21]) := by rfl
theorem test_decode_getcolor : decode Config.initial [0x80, 0x00, 0x00, 0x00, 0x02] = .ok (.getcolor 2, []) := by rfl
theorem test_decode_reserved : decode Config.initial [0x13] = .error (.reserved 0x13) := by rfl
theorem test_decode_truncated : decode Config.initial [0x30, 0x00] = .error (.truncated 0x30) := by rfl
theorem test_decode_wide : decode { Config.initial with cw := 4 } [0x11, 0x10] = .error (.operandTooWide 0x11) := by rfl
theorem test_decode_wide_slots : decoded { Config.initial with c := 600 } [0x63, 0x02, 0x58] = some (.setlen 600) := by decide

/-! Running a placed word -/

theorem test_step_word_poll :
    (after (step (State.reset.withFetchWord 8 0x12))).map (·.result) = some (some (.status 0b11)) := by decide
theorem test_step_word_enc :
    (after (step (State.reset.withFetchWord 8 0x4F))).map (·.result) = some (some (.symbol 0xEEEE)) := by decide
theorem test_step_word_start :
    raised (step (State.reset.withFetchWord 8 0x11)) = some .startBeforeInit := by decide
theorem test_step_trace_init :
    (after (step { State.reset with trace := [0x10, 0x12] })).map (fun t => (t.inited, t.trace)) = some (true, [0x12]) := by
  decide
theorem test_step_trace_disabled :
    refusal (step { State.reset with trace := [0x70] }) = some (.notEnabled .drain) := by decide
theorem test_step_trace_preempted :
    refusal (step { drained 6 6 true false with trace := [0x12] }) = some (.notEnabled .poll) := by decide

/-! Waiting (R73, R172) -/

theorem test_waitidle_serves_before_it_polls :
    (after (waitIdle 1 { finished with evf := true })).map (fun t => (t.evf, t.result)) =
      some (false, some (.status 0b11)) ∧
    (after (waitIdle 0 { finished with evf := true })).map (fun t => (t.evf, t.result)) = some (true, none) := by decide
theorem test_waitdone_holds_already :
    after (waitDone 9 finished) = some { finished with result := some (.status 0b11) } := by decide

/-! Symbol Encoder (V1 to V29) -/

theorem test_enc_v10 : (after (exec (.enc 9) State.reset)).map (·.result) = some (some (.symbol 0xE88E)) := by decide
theorem test_enc_v15 : (after (exec (.enc 14) State.reset)).map (·.result) = some (some (.symbol 0xEEE8)) := by decide
theorem test_enc24_v22 : (after (exec (.enc24 0x123456) State.reset)).map (·.result) =
    some (some (.sextet [0x888E, 0x88E8, 0x88EE, 0x8E88, 0x8E8E, 0x8EE8])) := by decide
theorem test_enc24_v25 : (after (exec (.enc24 0x800001) State.reset)).map (·.result) =
    some (some (.sextet [0xE888, 0x8888, 0x8888, 0x8888, 0x8888, 0x888E])) := by decide
theorem test_zsym_v29 : (after (exec .zsym State.reset)).map (·.result) = some (some (.symbol 0)) := by decide
theorem test_levels_v6 : symbolLevels 16 0x8E8E =
    [true, false, false, false, true, true, true, false, true, false, false, false, true, true, true, false] := by decide

/-! Buffer-Segment Filler (V30 to V48) -/

theorem test_fill_v39_slots : slots (exec (.fill 0 12 false) (filling (-1) 1)) = some (run 2 0 ++
    [some 0x888E, some 0x88E8, some 0x88EE, some 0x8E88, some 0x8E8E, some 0x8EE8] ++ run 4 0) := by decide
theorem test_fill_v35_v46 :
    regs (exec (.fill 6 6 true) { filling 1 2 with answers := [0xABCDEF, 0x00FF80] }) = some (some 2, false, true) ∧
    calls (exec (.fill 6 6 true) { filling 1 2 with answers := [0xABCDEF, 0x00FF80] }) = some [1] ∧
    regs (exec (.fill 0 12 true) (filling (-2) 3)) = some (some 1, false, true) ∧
    calls (exec (.fill 0 12 true) (filling (-2) 3)) = some [0] ∧
    raised (exec (.fill 0 12 true) (filling (-2) 3)) = some (.segmentOverrun 10 6) := by decide

/-! Transfer Controller (V50 to V65) -/

theorem test_init_v51 : after (exec .init State.reset) = some (ready Config.initial) := by decide
theorem test_init_v57 : raised (exec .init begun) = some .initWhileBusy := by decide
theorem test_start_v54 :
    slots (exec (.start 1) { ready Config.initial with answers := [0xFF0000] }) =
      some (run 12 0 ++ run 2 0xEEEE ++ run 4 0x8888 ++ run 6 0) ∧
    regs (exec (.start 1) { ready Config.initial with answers := [0xFF0000] }) = some (some 1, false, true) ∧
    (after (exec (.start 1) { ready Config.initial with answers := [0xFF0000] })).map (fun t => (t.len, t.rem, t.calls)) =
      some (24, 24, [0]) := by decide
theorem test_start_v61_v62 :
    raised (exec (.start (-1)) (ready Config.initial)) = some (.badLedCount (-1)) ∧
    raised (exec (.start 2147483647) (ready Config.initial)) = some (.badLedCount 2147483647) ∧
    Config.initial.ledCountOk 2147483646 = true := by decide
theorem test_poll_v50 : (after (exec .poll State.reset)).map (·.result) = some (some (.status 0b11)) := by decide
theorem test_poll_v58 : (after (exec .poll { finished with rem := 12 })).map (·.result) = some (some (.status 0b01)) := by decide

/-! Completion Handler (V70 to V78) -/

theorem test_service_v70 :
    slots (exec (.service 0b01)
      { filling 1 3 with buf := zeros 12, rem := 6, evh := true, calls := [0], answers := [0xABCDEF, 0x00FF80] }) =
      some ([some 0xE8E8, some 0xE8EE, some 0xEE88, some 0xEE8E, some 0xEEE8, some 0xEEEE] ++ run 6 0) := by decide
theorem test_service_v73 :
    (after (exec (.service 0b10) { filling 3 3 with buf := zeros 12, rem := 12, evf := true })).map
      (fun t => (t.cursor, t.done, t.circ, t.evf, t.rem)) = some (some 4, true, false, false, 12) := by decide

/-! Interface, engine, colour source (V79 to V80k, V28) -/

theorem test_ack_v79 : (after (exec .ack (drained 6 6 true false))).map (fun t => (t.evh, t.evf)) = some (false, false) := by decide
theorem test_arm_v80a : (after (exec .arm finished)).map (fun t => (t.circ, t.rem)) = some (true, 0) := by decide
theorem test_disarm_v80b : (after (exec .disarm { begun with rem := 9 })).map (fun t => (t.circ, t.rem)) = some (false, 9) := by
  decide
theorem test_setlen_v80c : (after (exec (.setlen 12) finished)).map (fun t => (t.len, t.rem)) = some (12, 12) := by decide
theorem test_setlen_v80d : raised (exec (.setlen 5) finished) = some (.badOperand (.setlen 5)) := by decide
theorem test_drain_v80f :
    (after (exec .drain { drained 5 7 false false with buf := Memory.write (zeros 12) 5 0x8EE8 })).map
      (fun t => (t.wire, t.rem, t.evh, t.evf)) = some ([0, 0, 0, 0, 0, 0x8EE8], 6, true, false) := by decide
theorem test_drain_v80g_v80h_v78 :
    (after (exec .drain (drained 11 1 false false))).map (fun t => (t.rem, t.evf)) = some (12, true) ∧
    (after (exec .drain { finished with rem := 1 })).map (fun t => (t.rem, t.evf)) = some (0, true) ∧
    raised (exec .drain (drained 11 1 true false)) = some (.underrun .full 0b01) := by decide
theorem test_getcolor_v28 :
    (after (exec (.getcolor 0) { State.reset with answers := [0x1FF0000] })).map (fun t => (t.result, t.calls, t.answers)) =
      some (some (.colour 0xFF0000), [0], []) := by decide

/-! Witnesses: the hypotheses of the statements, met together -/

/-- Both invariants' memory facts on the silent frame. -/
theorem zeros_hold (i : Nat) (h : i < 12) : Memory.read (zeros 12) i = some 0 := by
  revert i; decide

theorem wf_drained (l r : Nat) (h f : Bool) (hr : r ≤ 12) (hf : ¬(h = true ∧ f = true)) : (drained l r h f).Wf where
  bufSorted := show Memory.wf (zeros 12) by decide
  bufInside := show ∀ e ∈ zeros 12, e.1 < 12 by decide
  bufWidth := show ∀ e ∈ zeros 12, e.2 < 2 ^ 16 by decide
  wireWidth := fun v hv => by rw [List.eq_of_mem_replicate hv]; show 0 < 2 ^ 16; decide
  lenRange := .inr rfl
  remRange := hr
  armedOnce := rfl
  oneFlag := hf

theorem wf_ready (bs : List Byte) : ({ ready small with trace := bs } : State).Wf where
  bufSorted := show Memory.wf [] by decide
  bufInside := show ∀ e ∈ ([] : Memory), e.1 < 12 by decide
  bufWidth := show ∀ e ∈ ([] : Memory), e.2 < 2 ^ 16 by decide
  wireWidth := show ∀ v ∈ ([] : List Symbol), v < 2 ^ 16 by decide
  lenRange := .inl rfl
  remRange := show 0 ≤ 12 by decide
  armedOnce := rfl
  oneFlag := show ¬(false = true ∧ false = true) by decide

theorem runInv_ready (bs : List Byte) : ({ ready small with trace := bs } : State).RunInv where
  config := show small.firstFailing = none by decide
  noFault := rfl
  noUnit := rfl
  wf := wf_ready bs
  circ := rfl
  phase := .inl ⟨rfl, rfl, rfl, rfl, rfl, rfl⟩

/-- The silent frame in the middle of a lap, with the half event pending (V70's place in it). -/
theorem runInv_pending : (drained 6 6 true false).RunInv where
  config := by decide
  noFault := rfl
  noUnit := rfl
  wf := wf_drained 6 6 true false (by decide) (by decide)
  circ := rfl
  phase := .inr ⟨0, 0, rfl, rfl, rfl, by decide, by decide, by decide, by decide, by decide,
    fun i hi => ⟨0, zeros_hold i hi⟩, by decide, by decide, by decide⟩

/-- The same frame one slot before the lap end, the half event still unserved (V78). -/
theorem runInv_late : (drained 11 1 true false).RunInv where
  config := by decide
  noFault := rfl
  noUnit := rfl
  wf := wf_drained 11 1 true false (by decide) (by decide)
  circ := rfl
  phase := .inr ⟨0, 0, rfl, rfl, rfl, by decide, by decide, by decide, by decide, by decide,
    fun i hi => ⟨0, zeros_hold i hi⟩, by decide, by decide, by decide⟩

/-- In time, and too late. -/
theorem witness_real_time : (drained 6 6 true false).RunInv ∧ (drained 11 1 true false).RunInv ∧
    (∃ t, agentStep .drain (drained 6 6 true false) = .next t ∧ t.fault = none) ∧
    (∃ t, agentStep .drain (drained 11 1 true false) = .next t ∧ t.fault ≠ none) :=
  ⟨runInv_pending, runInv_late, ⟨_, rfl, rfl⟩, _, rfl, by decide⟩

/-- The silent frame is the logical stream of any colours. -/
theorem streams_pending : (drained 6 6 true false).Streams (drained 6 6 true false).nextColour 0 where
  config := by decide
  noFault := rfl
  armed := rfl
  ledCount := rfl
  oneFlag := by decide
  wire := by decide
  remRange := by decide
  lap := by decide
  halfParity := by decide
  fullParity := by decide
  buffer := fun i h1 h2 => by
    have hp : producedAt (drained 6 6 true false) = 12 := by decide
    rw [hp] at h1 h2
    revert h1; revert i; decide
  circ := rfl
  cursor := by decide
  calls := by decide
  colours := fun k => by rw [show ledsBefore (drained 6 6 true false).cfg 0 _ = 0 from by decide, Nat.zero_add]
  streaming := by decide
  closing := by decide

theorem streams_finished : finished.Streams finished.nextColour 0 where
  config := by decide
  noFault := rfl
  armed := rfl
  ledCount := rfl
  oneFlag := by decide
  wire := by decide
  remRange := by decide
  lap := by decide
  halfParity := by decide
  fullParity := by decide
  buffer := fun i h1 h2 => by
    have hp : producedAt finished = 36 := by decide
    rw [hp] at h1 h2
    revert h1; revert i; decide
  circ := rfl
  cursor := by decide
  calls := by decide
  colours := fun k => by rw [show ledsBefore finished.cfg 0 _ = 0 from by decide, Nat.zero_add]
  streaming := by decide
  closing := by decide

theorem witness_frame_over : finished.Streams finished.nextColour 0 ∧ finished.frameOver :=
  ⟨streams_finished, rfl, rfl, rfl, rfl, rfl⟩

theorem witness_reserved_code :
    (0x13 : Byte).toNat ≠ 0x12 ∧ (0x13 : Byte).toNat ≠ 0x20 ∧ selectOp 0x13 = none ∧
    ({ State.reset with trace := [0x13] } : State).cfg.firstFailing = none ∧
    ({ State.reset with trace := [0x13] } : State).fault = none ∧
    ({ State.reset with trace := [0x13] } : State).bench = [] := by decide

theorem witness_step_runs :
    decoded Config.initial [0x12, 0x10] = some .poll ∧ enabled .poll { State.reset with trace := [0x12, 0x10] } = true ∧
    State.reset.cfg.firstFailing = none ∧ State.reset.fault = none ∧ State.reset.bench = [] := by decide

theorem witness_enabled : issuedBy .poll = .host ∧ issuedBy (.fill 0 0 false) = .inside := ⟨rfl, rfl⟩

theorem witness_disabled : decoded Config.initial [0x70] = some .drain ∧
    enabled .drain { State.reset with trace := [0x70] } = false := by decide

theorem witness_no_step_after_fault :
    ({ State.reset with fault := some .initWhileBusy } : State).cfg.firstFailing = none := by decide

theorem witness_encoder : State.reset.cfg.sym.length = 16 ∧ State.reset.cfg.firstFailing = none ∧
    exec (.enc 3) State.reset = exec (.enc 3) State.reset ∧ exec (.enc24 3) State.reset = exec (.enc24 3) State.reset :=
  ⟨rfl, by decide, rfl, rfl⟩

/-- V48: the segment ends one slot outside. -/
theorem witness_fill_outside : (filling 0 0).fault = none ∧ (filling 0 0).cfg.c < 6 + 7 := by decide

theorem witness_fill_of_no_slots : 12 ≤ (filling (-1) 1).cfg.c ∧ (filling (-1) 1).cursor = some (-1) ∧
    (filling (-1) 1).ledCount = some 1 := by decide

theorem witness_fill_without_values : 0 + 12 ≤ (State.resetWith small).cfg.c ∧ (State.resetWith small).cursor = none ∧
    ({ State.resetWith small with cursor := some 0 } : State).cursor = some 0 ∧
    ({ State.resetWith small with cursor := some 0 } : State).ledCount = none := by decide

/-- V36, V42, V39: the three ways the groups fit; and `FILL` answers a next state there. -/
theorem witness_fill_fits : groupsFit (-5) 3 6 ∧ groupsFit 0 2 12 ∧ groupsFit (-1) 1 12 ∧
    (∃ t, exec (.fill 0 12 false) (filling (-1) 1) = .next t) :=
  ⟨by decide, by decide, by decide, _, rfl⟩

/-- V35, V37, V40: a closing call that does not pad, a call that pads at the terminal value, a closing call that reaches
`LEDCOUNT` and pads; and where `FILL` then answers a next state. -/
theorem witness_fill_advances :
    (groupsFit 1 3 6 ∧ ¬ preambleSlots 1 + ledSlots 1 3 < 6) ∧ (groupsFit 3 2 6 ∧ preambleSlots 3 + ledSlots 3 2 < 6) ∧
    (groupsFit (-1) 1 12 ∧ preambleSlots (-1) + ledSlots (-1) 1 < 12) ∧
    regs (exec (.fill 6 6 true) (filling 1 3)) = some (some 2, false, true) ∧
    regs (exec (.fill 6 6 false) (filling 3 2)) = some (some 3, true, true) ∧
    regs (exec (.fill 0 12 true) (filling (-1) 1)) = some (some 2, true, false) := by decide

/-- V43, V45: a pair and a sextet that do not fit. -/
theorem witness_fill_overruns : ¬ groupsFit (-1) 1 1 ∧ ¬ groupsFit (-3) 1 8 := by decide

/-- V33, V34, V37: one slot is enough. -/
theorem witness_fill_closing : (0 : Int) ≤ 2 ∧ 0 < 1 ∧ 11 + 1 ≤ (filling 2 2).cfg.c ∧
    (filling 2 2).ledCount = some 2 ∧ (filling 2 2).cursor = some 2 ∧ (filling 3 2).cursor = some (2 + 1) := by decide

theorem witness_init : State.reset.done = true ∧ State.reset.rem = 0 ∧ begun.done = false ∧ 0 < begun.rem ∧
    begun.fault = none ∧ (∃ t, exec .init State.reset = .next t ∧ t.fault = none) :=
  ⟨rfl, rfl, rfl, by decide, rfl, _, rfl, rfl⟩

/-- V53, V56, V59, V61, V62: each check of `START`, the last at both ends of the range. -/
theorem witness_start_checks : 1 ≤ small.cw ∧ State.reset.inited = false ∧
    (begun.inited = true ∧ begun.done = false) ∧
    (({ finished with rem := 12 } : State).done = true ∧ 0 < ({ finished with rem := 12 } : State).rem) ∧
    (finished.inited = true ∧ finished.done = true ∧ finished.rem = 0) ∧
    (-1 : Int) < 0 ∧ (2 : Int) ^ (small.cw - 1) - 2 < 2147483647 := by decide

theorem witness_start : (ready small).cfg.firstFailing = none ∧ 1 ≤ (ready small).cfg.cw ∧ (ready small).inited = true ∧
    (ready small).done = true ∧ (ready small).rem = 0 ∧
    ((2147483646 : Nat) : Int) ≤ 2 ^ ((ready small).cfg.cw - 1) - 2 := by decide

/-- V63 and program P5: the initial fill without a fault, and with one in a configuration that fails CFG2. -/
theorem witness_start_fills : (ready small).fault = none ∧ (2147483646 : Int) ≤ 2 ^ ((ready small).cfg.cw - 1) - 2 ∧
    (∃ u, exec (.fill 0 12 false) ((ready small).beginFrame 0) = .next u ∧ u.fault = none) ∧
    (∃ u, exec (.fill 0 16 false) ((ready { Config.initial with c := 16 }).beginFrame 1) = .next u ∧ u.fault ≠ none) :=
  ⟨rfl, by decide, ⟨_, rfl, rfl⟩, ⟨_, rfl, by decide⟩⟩

/-- The four cases of the handler, and for both flags a first refill without and with a fault. -/
theorem witness_service : begun.cfg.closingHalf = .second ∧ begun.fault = none ∧
    (begun.evh = false ∧ begun.evf = false) ∧
    ((drained 6 6 true false).evh = true ∧ (drained 6 6 true false).evf = false) ∧
    ((drained 12 12 false true).evh = false ∧ (drained 12 12 false true).evf = true) ∧
    (∃ u, exec (.fill 0 6 false) (filling (-3) 1) = .next u ∧ u.fault = none) ∧
    (∃ u, exec (.fill 0 6 false) (filling (-1) 1) = .next u ∧ u.fault ≠ none) :=
  ⟨rfl, rfl, ⟨rfl, rfl⟩, ⟨rfl, rfl⟩, ⟨rfl, rfl⟩, ⟨_, rfl, rfl⟩, ⟨_, rfl, by decide⟩⟩

theorem witness_service_completes : (filling (-3) 1).cfg.firstFailing = none ∧ (filling (-3) 1).fault = none ∧
    (filling (-3) 1).cursor = some (-3) ∧ (filling (-3) 1).ledCount = some 1 ∧ ((-3 : Int) < 0 → (-3 : Int) % 3 = 0) := by
  decide

theorem witness_setlen : finished.rem = 0 ∧ finished.cfg.c = 12 ∧ finished.fault = none ∧ 0 < begun.rem := by decide

/-- V80e: slots away from both ends of a half, `REM` at its largest and smallest. -/
theorem witness_drain_one_slot : (1 < (drained 0 12 false false).rem ∧ (drained 0 12 false false).rem ≤ 12 ∧
      (drained 0 12 false false).rem - 1 ≠ 12 - 6 ∧ Memory.read (drained 0 12 false false).buf 0 = some 0) ∧
    (1 < (drained 10 2 true false).rem ∧ (drained 10 2 true false).rem - 1 ≠ 12 - 6 ∧
      Memory.read (drained 10 2 true false).buf 10 = some 0) := by decide

/-- V80f, V80g, V80j, V78: the two firing slots, without and with a pending flag. -/
theorem witness_drain_fires : small.c = 2 * small.h ∧ 1 ≤ small.h ∧ small.c - (drained 5 7 false false).rem = small.h - 1 ∧
    (drained 11 1 false false).rem = 1 ∧ (drained 5 7 false false).evh = false ∧ (drained 5 7 false false).evf = false ∧
    Memory.read (drained 5 7 false false).buf 5 = some 0 ∧ Memory.read (drained 5 7 false false).buf 11 = some 0 ∧
    (drained 5 7 false true).evf = true ∧ (drained 5 7 false true).rem - 1 = small.c - small.h ∧
    (drained 11 1 true false).evh = true := by decide

/-- V80i, V80k. -/
theorem witness_drain_stops : finished.rem = 0 ∧
    Memory.read ({ State.resetWith small with rem := 3 } : State).buf (12 - 3) = none := by decide

theorem witness_getcolor : ({ State.reset with answers := [0x1FF0000] } : State).answers = 0x1FF0000 :: [] ∧
    State.reset.answers = [] := by decide

theorem witness_step_keeps_wf : ({ ready small with trace := [0x10] } : State).Wf ∧
    ∃ t, step { ready small with trace := [0x10] } = .next t := ⟨wf_ready _, _, rfl⟩

theorem witness_run_step :
    (∃ s t : State, s.RunInv ∧ step s = .next t ∧ t.fault = none) ∧
    (∃ s t : State, s.RunInv ∧ step s = .next t ∧ t.fault ≠ none) :=
  ⟨⟨_, _, runInv_ready [0x11, 0x00, 0x00, 0x00, 0x00], rfl, rfl⟩,
    _, _, runInv_ready [0x11, 0xFF, 0xFF, 0xFF, 0xFF], rfl, by decide⟩

theorem witness_cursor : (drained 6 6 true false).RunInv ∧ (drained 6 6 true false).cursor = some 0 ∧
    (drained 6 6 true false).ledCount = some 0 ∧ (∀ m, Instr.service 0b01 ≠ .start m) ∧
    (∃ t, agentStep (.service 0b01) (drained 6 6 true false) = .next t ∧ t.fault = none) :=
  ⟨runInv_pending, rfl, rfl, fun _ => by simp, _, rfl, rfl⟩

/-- The handler, the engine and the host each take a step that keeps the stream. -/
theorem witness_every_schedule : (drained 6 6 true false).Streams (drained 6 6 true false).nextColour 0 ∧
    (drained 6 6 true false).cfg.closingHalf = .second ∧
    (∃ t, agentStep (.service 0b01) (drained 6 6 true false) = .next t ∧ t.fault = none) ∧
    (∃ t, agentStep .drain (drained 6 6 true false) = .next t ∧ t.fault = none) ∧
    finished.Streams finished.nextColour 0 ∧ (∃ t, agentStep .init finished = .next t ∧ t.fault = none) :=
  ⟨streams_pending, rfl, ⟨_, rfl, rfl⟩, ⟨_, rfl, rfl⟩, streams_finished, _, rfl, rfl⟩

theorem witness_each_agent : (∃ t, exec .drain begun = .next t) ∧ (∃ t, exec (.service 0b01) (drained 6 6 true false) = .next t) ∧
    (∃ t, exec .poll begun = .next t) ∧ (∃ t, exec .init begun = .next t) ∧ (∃ t, exec (.start 0) (ready small) = .next t) :=
  ⟨⟨_, rfl⟩, ⟨_, rfl⟩, ⟨_, rfl⟩, ⟨_, rfl⟩, ⟨_, rfl⟩⟩

theorem witness_commute : (drained 6 6 true false).RunInv ∧ (drained 6 6 true false).pending = true ∧
    0 < (drained 6 6 true false).rem ∧ ¬ (drained 6 6 true false).drainFires := by
  refine ⟨runInv_pending, rfl, by decide, ?_⟩
  unfold State.drainFires; decide

theorem witness_start_begins : (ready small).RunInv ∧ (ready small).cfg.closingHalf = .second ∧
    (∃ t, agentStep (.start 0) (ready small) = .next t ∧ t.fault = none) := ⟨runInv_ready [], rfl, _, rfl, rfl⟩

/-- The hypotheses of `EveryFrameRunsToItsEnd`, `WaitDoneEndsAtTheClosingEvent` and `WaitIdleEndsWithTheFrameOver`, at the
largest count. -/
theorem witness_every_frame : (ready small).RunInv ∧ (ready small).cfg.closingHalf = .second ∧ 1 ≤ (ready small).cfg.cw ∧
    (ready small).inited = true ∧ (ready small).done = true ∧ (ready small).rem = 0 ∧ (ready small).pending = false ∧
    ((2147483646 : Nat) : Int) ≤ 2 ^ ((ready small).cfg.cw - 1) - 2 :=
  ⟨runInv_ready [], rfl, by decide, rfl, rfl, rfl, rfl, by decide⟩

end Sys2Proof.Tests
end

/-! The step around `exec`, the configuration checks, and the real-time premise (spec/00_scope.md R5, R7 to R9). -/

namespace Sys2Proof

/-! What each check of R7 and R8 asks, as a proposition. -/

theorem Config.passes_cfg1 (cfg : Config) :
    cfg.passes .cfg1 = true ↔ cfg.c = 2 * (cfg.c / 2) ∧ 1 ≤ cfg.c / 2 := by
  simp only [Config.passes, Bool.and_eq_true, decide_eq_true_eq]
  rfl

theorem Config.passes_cfg2 (cfg : Config) : cfg.passes .cfg2 = true ↔ cfg.c / 2 % 6 = 0 :=
  decide_eq_true_iff

theorem Config.passes_cfg3 (cfg : Config) : cfg.passes .cfg3 = true ↔ 0 ≤ cfg.r ∧ cfg.r % 3 = 0 := by
  simp only [Config.passes, Bool.and_eq_true, decide_eq_true_eq]

theorem Config.passes_cfg4 (cfg : Config) :
    cfg.passes .cfg4 = true ↔ cfg.sym.length = 16 ∧ (∀ x ∈ cfg.sym, x < 2 ^ cfg.w) ∧ cfg.sym.Nodup := by
  simp only [Config.passes, Bool.and_eq_true, List.all_eq_true, decide_eq_true_eq, and_assoc]

theorem Config.passes_cfg5 (cfg : Config) : cfg.passes .cfg5 = true ↔ 1 ≤ cfg.w :=
  decide_eq_true_iff

theorem Config.passes_cfg6 (cfg : Config) : cfg.passes .cfg6 = true ↔ ((cfg.c / 2 : Nat) : Int) ≤ 2 * cfg.r :=
  decide_eq_true_iff

/-- The order of R162: each check is looked at only when those before it pass. -/
theorem Config.firstFailing_eq_ite (cfg : Config) : cfg.firstFailing =
    if cfg.passes .cfg1 then if cfg.passes .cfg2 then if cfg.passes .cfg3 then if cfg.passes .cfg4 then
      if cfg.passes .cfg5 then if cfg.passes .cfg6 then none
      else some .cfg6 else some .cfg5 else some .cfg4 else some .cfg3 else some .cfg2 else some .cfg1 := by
  have look : ∀ k ks, (k :: ks).find? (fun k => !cfg.passes k) =
      if cfg.passes k then ks.find? (fun k => !cfg.passes k) else some k := fun k ks => by
    cases h : cfg.passes k <;> simp [h]
  simp only [Config.firstFailing, look, List.find?_nil]

end Sys2Proof

namespace Sys2Proof.Machine

/-! The step around `exec` -/

theorem step_of_configRefused {s : State} {k : ConfigCheck} (h : s.cfg.firstFailing = some k) :
    step s = .refused (.configRefused k) := by
  simp [step, h]

/-- With a well-formed configuration and no fault, a step is `exec` of what is fetched. -/
theorem step_of_fetch {s t : State} {i : Instr} (hc : s.cfg.firstFailing = none) (hf : s.fault = none)
    (h : fetch s = .ok (i, t)) : step s = exec i t := by
  simp [step, hc, hf, h]

/-- A `bench` that decodes holds a byte, so it is taken before `trace`. -/
theorem fetch_of_bench {s : State} {i : Instr} {rest : List Byte} (h : decode s.cfg s.bench = .ok (i, rest)) :
    fetch s = .ok (i, { s with bench := rest }) := by
  have hb : s.bench ≠ [] := by
    intro he
    rw [he] at h
    cases h
  simp [fetch, hb, fetchUnit, h]

theorem fetch_of_trace {s : State} {i : Instr} {rest : List Byte} (hb : s.bench = [])
    (h : decode s.cfg s.trace = .ok (i, rest)) (he : enabled i s = true) :
    fetch s = .ok (i, { s with trace := rest }) := by
  simp [fetch, hb, fetchScheduled, h, he]

/-! The real-time premise -/

@[simp] theorem lapEnd_fault (s : State) : (lapEnd s).fault = s.fault := by
  unfold lapEnd
  split <;> rfl

/-- An engine that runs in a run has been given a frame: in the state of R38 it is halted. -/
theorem State.RunInv.started_of_running {s : State} (h : s.RunInv) (hr : 0 < s.rem) : ∃ c n, s.Started c n := by
  rcases h.phase with fresh | started
  · have := fresh.rem
    omega
  · exact started

/-- In a run, the slot a running engine streams next holds a symbol. -/
theorem State.RunInv.drained_slot_holds {s : State} (h : s.RunInv) (hr : 0 < s.rem) :
    ∃ v, Memory.read s.buf (s.cfg.c - s.rem) = some v := by
  obtain ⟨c, n, started⟩ := h.started_of_running hr
  have hle := h.wf.remRange
  exact started.slotsHold _ (by omega)

/-- Of a slot that holds a symbol, a `DRAIN` raises a fault exactly when it fires an event on a pending one (R150). -/
theorem execDrain_fault_eq_none_iff {s t : State} (hr : 0 < s.rem) (hh : 0 < s.cfg.c - s.cfg.h)
    (hf : s.fault = none) {v : Symbol} (hv : Memory.read s.buf (s.cfg.c - s.rem) = some v)
    (ht : execDrain s = .next t) : t.fault = none ↔ s.realTimeOk := by
  rcases execDrain_cases hr hh with
    ⟨_, -, ⟨noHalf, noFull, e⟩ | ⟨-, hp, e⟩ | ⟨-, hp, e⟩ | ⟨atHalf, hp, e⟩ | ⟨atFull, hp, e⟩⟩ | ⟨hnone, -⟩
  case inl.inl =>
    have quiet : ¬ s.drainFires := by
      unfold State.drainFires
      omega
    cases ht.symm.trans e
    simp [hf, State.realTimeOk, quiet]
  case inl.inr.inl | inl.inr.inr.inl =>
    cases ht.symm.trans e
    simp [hf, State.realTimeOk, hp]
  case inl.inr.inr.inr.inl =>
    have fires : s.drainFires := .inr (by omega)
    cases ht.symm.trans e
    simp [hf, State.realTimeOk, hp, fires]
  case inl.inr.inr.inr.inr =>
    have fires : s.drainFires := .inl atFull
    cases ht.symm.trans e
    simp [hf, State.realTimeOk, hp, fires]
  case inr => simp [hv] at hnone

end Sys2Proof.Machine

/-! The obligations of spec/00_scope.md -/

section
open Sys2Proof Sys2Proof.Machine

/-- Settles O44: in a run the slot streamed holds a symbol, so an underrun is the only fault a `DRAIN` can raise. -/
theorem realTimePremiseIsTheAbsenceOfUnderrun : Obligations.RealTimePremiseIsTheAbsenceOfUnderrun := by
  intro s t inv hstep
  obtain ⟨hf, he, hexec⟩ := agentStep_cases hstep
  have hr : 0 < s.rem := by simpa using (enabled_cases he).2
  obtain ⟨v, hv⟩ := inv.drained_slot_holds hr
  have ok := Config.ok_of inv.config
  have hh : 0 < s.cfg.c - s.cfg.h := by
    have := ok.halves
    have := ok.halfPos
    omega
  exact execDrain_fault_eq_none_iff hr hh hf hv hexec

/-- Settles O9, by following the checks in their order up to the first that fails. -/
theorem illFormedConfigurationsAreRefused : Obligations.IllFormedConfigurationsAreRefused := by
  refine ⟨fun cfg => ?_, fun s k => step_of_configRefused⟩
  intro c1 c2 c3 c4 c5 c6
  have chain : cfg.firstFailing = if c1 then if c2 then if c3 then if c4 then if c5 then if c6 then none
      else some .cfg6 else some .cfg5 else some .cfg4 else some .cfg3 else some .cfg2 else some .cfg1 := by
    simp only [Config.firstFailing_eq_ite, Config.passes_cfg1, Config.passes_cfg2, Config.passes_cfg3,
      Config.passes_cfg4, Config.passes_cfg5, Config.passes_cfg6, c1, c2, c3, c4, c5, c6]
  rw [chain]
  by_cases h1 : c1
  case neg => simp [h1]
  by_cases h2 : c2
  case neg => simp [h1, h2]
  by_cases h3 : c3
  case neg => simp [h1, h2, h3]
  by_cases h4 : c4
  case neg => simp [h1, h2, h3, h4]
  by_cases h5 : c5
  case neg => simp [h1, h2, h3, h4, h5]
  by_cases h6 : c6 <;> simp [h1, h2, h3, h4, h5, h6]

/-- Settles O5: both byte strings fetch the operation they decode to, with its bytes taken off. -/
theorem stepRunsTheDecodedOperation : Obligations.StepRunsTheDecodedOperation := by
  intro s i rest hc hf
  constructor
  · intro hd
    exact step_of_fetch hc hf (fetch_of_bench hd)
  · intro hb hd he
    exact step_of_fetch hc hf (fetch_of_trace hb hd he)

end

/-! What every step keeps and who may write what, the invariant of a run, and the state after reset (spec/10_state.md
R20 to R38) -/

namespace Sys2Proof.Machine

/-! What a `FILL` and a `SERVICE` write -/

/-- A `FILL` writes the Output Buffer only: one outside it writes nothing (R91). -/
theorem fillSegment_filled_inside (start count : Nat) (closing : Bool) (s : State) :
    Filled 0 s.cfg.c s (fillSegment start count closing s).state := by
  by_cases hin : s.cfg.segmentInside start count = true
  · exact (fillSegment_filled start count closing s).mono (Nat.zero_le _) (of_decide_eq_true hin)
  · simp only [fillSegment, if_neg hin]
    exact Filled.refl _ _ _

theorem execFill_filled {start count : Nat} {closing : Bool} {s t : State}
    (h : execFill start count closing s = .next t) :
    ∃ u f, Filled 0 s.cfg.c s u ∧ t = { u with fault := f } := by
  obtain ⟨f, ht⟩ := Flow.finish_cases h
  exact ⟨_, f, fillSegment_filled_inside start count closing s, ht⟩

theorem execService_filled {flags : EvFlags} {s t : State} (h : execService flags s = .next t) :
    ∃ u f, Filled 0 s.cfg.c s.ackEvents u ∧ t = { u with fault := f } := by
  rw [execService_eq] at h
  obtain ⟨f, ht⟩ := Flow.finish_cases h
  have hh : s.cfg.h + s.cfg.h ≤ s.cfg.c := by
    unfold Config.h
    omega
  exact ⟨_, f, (serviceBody_filled s).mono le_rfl hh, ht⟩

/-! The Transfer Controller and `SETLEN` -/

theorem execInit_cases {s t : State} (h : execInit s = .next t) :
    (s.done = true ∧ s.rem = 0 ∧ t = (s.ackEvents.setLength 0).setUp) ∨ t = s.raise .initWhileBusy := by
  unfold execInit at h
  split_ifs at h with hready
  · cases h
    exact .inl ⟨hready.1, hready.2, rfl⟩
  · cases h
    exact .inr rfl

/-- `START` fails a check, or begins the frame and fills; then it arms and sets the length, unless the `FILL` raised. -/
theorem execStart_cases {n : Int} {s t : State} (h : execStart n s = .next t) :
    (∃ f, startFault n s = some f ∧ t = s.raise f) ∨
    startFault n s = none ∧ ∃ u, Filled 0 s.cfg.c (s.beginFrame n) u ∧ u.circ = s.circ ∧
      (t = u.armCircular.setLength s.cfg.c ∨ ∃ f, t = u.raise f) := by
  unfold execStart at h
  split at h
  · cases h
    exact .inl ⟨_, ‹_›, rfl⟩
  · have filled := fillSegment_filled_inside 0 s.cfg.c false (s.beginFrame n)
    have circ := fillSegment_open_circ 0 s.cfg.c (s.beginFrame n)
    refine .inr ⟨‹_›, _, filled, circ, ?_⟩
    cases hfill : fillSegment 0 s.cfg.c false (s.beginFrame n) with
    | go u =>
      have hcfg : u.cfg = s.cfg := by simpa [hfill, Flow.state] using filled.cfg
      rw [hfill] at h
      cases h
      exact .inl (by rw [hcfg]; rfl)
    | raised f u =>
      rw [hfill] at h
      cases h
      exact .inr ⟨f, rfl⟩

/-- The checks of R112 raise nothing but a broken precondition of the host. -/
theorem startFault_isPremiseBreach {n : Int} {s : State} {f : Fault} (h : startFault n s = some f) :
    f.isPremiseBreach = true := by
  unfold startFault at h
  split_ifs at h <;> cases h <;> rfl

theorem execSetlen_cases {n : Nat} {s t : State} (h : execSetlen n s = .next t) :
    ((n = 0 ∨ n = s.cfg.c) ∧ t = s.setLength n) ∨ t = s.raise (.badOperand (.setlen n)) := by
  unfold execSetlen at h
  split_ifs at h with hlegal
  · cases h
    exact .inl ⟨hlegal, rfl⟩
  · cases h
    exact .inr rfl

/-! What no operation writes -/

/-- No operation writes the configuration (R26), or the byte strings that operations are taken from (log 7). -/
structure KeepsInputs (s t : State) : Prop where
  cfg : t.cfg = s.cfg
  trace : t.trace = s.trace
  bench : t.bench = s.bench

theorem Drained.keepsInputs {s t : State} (h : Drained s t) : KeepsInputs s t := by
  rw [h.frame]
  exact ⟨rfl, rfl, rfl⟩

theorem exec_keepsInputs {i : Instr} {s t : State} (h : exec i s = .next t) : KeepsInputs s t := by
  cases i with
  | init => rcases execInit_cases h with ⟨-, -, rfl⟩ | rfl <;> exact ⟨rfl, rfl, rfl⟩
  | start n =>
    rcases execStart_cases h with ⟨f, -, rfl⟩ | ⟨-, u, filled, -, rfl | ⟨f, rfl⟩⟩
    · exact ⟨rfl, rfl, rfl⟩
    · exact ⟨filled.cfg, filled.trace, filled.bench⟩
    · exact ⟨filled.cfg, filled.trace, filled.bench⟩
  | service flags =>
    obtain ⟨u, f, filled, rfl⟩ := execService_filled (flags := flags) h
    exact ⟨filled.cfg, filled.trace, filled.bench⟩
  | fill start count closing =>
    obtain ⟨u, f, filled, rfl⟩ := execFill_filled h
    exact ⟨filled.cfg, filled.trace, filled.bench⟩
  | setlen n => rcases execSetlen_cases h with ⟨-, rfl⟩ | rfl <;> exact ⟨rfl, rfl, rfl⟩
  | drain => exact (execDrain_drained h).keepsInputs
  | poll | enc _ | enc24 _ | zsym | ack | arm | disarm | getcolor _ =>
    cases h
    exact ⟨rfl, rfl, rfl⟩

theorem step_keeps_cfg {s t : State} (h : step s = .next t) : t.cfg = s.cfg := by
  obtain ⟨-, -, ⟨_, _, -, -, hexec⟩ | ⟨_, _, -, -, -, hexec⟩⟩ := step_cases h <;>
    exact (exec_keepsInputs hexec).cfg

/-! The shape of the state -/

/-- The fields the shape does not speak of may take any value. -/
theorem State.Wf.of_frame {s t : State} (h : s.Wf)
    (frame : t = { s with cursor := t.cursor, ledCount := t.ledCount, done := t.done, circ := t.circ, calls := t.calls,
                          fault := t.fault, result := t.result, trace := t.trace, bench := t.bench,
                          answers := t.answers, draws := t.draws }) : t.Wf := by
  rw [frame]
  exact { h with }

theorem State.Wf.ackEvents {s : State} (h : s.Wf) : s.ackEvents.Wf :=
  { h with oneFlag := by simp }

theorem State.Wf.setLength {s : State} (h : s.Wf) {n : Nat} (hn : n = 0 ∨ n = s.cfg.c) : (s.setLength n).Wf :=
  { h with
    lenRange := hn
    remRange := by
      show n ≤ s.cfg.c
      omega }

theorem State.Wf.setUp {s : State} (h : s.Wf) : s.setUp.Wf :=
  { h with armedOnce := rfl }

theorem State.Wf.beginFrame {s : State} (h : s.Wf) (n : Int) : (s.beginFrame n).Wf :=
  { h with wireWidth := by simp }

/-- Slots of the buffer, symbols that the encoder and the padding write: `W` bits, by CFG4. -/
theorem State.Wf.filled {s t : State} (h : s.Wf) (ok : s.cfg.Ok) (filled : Filled 0 s.cfg.c s t) : t.Wf where
  bufSorted := filled.sorted h.bufSorted
  bufInside e he := by
    rw [filled.cfg]
    rcases filled.listed e he with old | ⟨-, inside, -⟩
    · exact h.bufInside e old
    · exact inside
  bufWidth e he := by
    rw [filled.cfg]
    rcases filled.listed e he with old | ⟨-, -, width⟩
    · exact h.bufWidth e old
    · exact width ok
  wireWidth := by rw [filled.wire, filled.cfg]; exact h.wireWidth
  lenRange := by rw [filled.len, filled.cfg]; exact h.lenRange
  remRange := by rw [filled.rem, filled.cfg]; exact h.remRange
  armedOnce := by rw [filled.inited, filled.irqen]; exact h.armedOnce
  oneFlag := by rw [filled.evh, filled.evf]; exact h.oneFlag

/-- The engine shifts out what a slot holds, and counts down or wraps to `C`. -/
theorem State.Wf.drained {s t : State} (h : s.Wf) (drained : Drained s t) : t.Wf := by
  have wire : ∀ v ∈ t.wire, v < 2 ^ s.cfg.w := by
    rcases drained.wire with same | ⟨v, listed, longer⟩
    · rw [same]
      exact h.wireWidth
    · intro x hx
      rw [longer, List.mem_append, List.mem_singleton] at hx
      rcases hx with old | rfl
      · exact h.wireWidth x old
      · exact h.bufWidth _ listed
  have rem : t.rem ≤ s.cfg.c := by
    have := h.remRange
    have := drained.rem
    omega
  rw [drained.frame]
  exact { h with wireWidth := wire, remRange := rem, oneFlag := drained.oneFlag h.oneFlag }

theorem exec_keeps_wf {i : Instr} {s t : State} (wf : s.Wf) (ok : s.cfg.Ok) (h : exec i s = .next t) : t.Wf := by
  cases i with
  | init =>
    rcases execInit_cases h with ⟨-, -, rfl⟩ | rfl
    · exact (wf.ackEvents.setLength (.inl rfl)).setUp
    · exact wf.of_frame rfl
  | start n =>
    rcases execStart_cases h with ⟨f, -, rfl⟩ | ⟨-, u, filled, -, rfl | ⟨f, rfl⟩⟩
    · exact wf.of_frame rfl
    · have begun := (wf.beginFrame n).filled ok filled
      have armed : u.armCircular.Wf := begun.of_frame rfl
      exact armed.setLength (.inr (congrArg Config.c filled.cfg.symm))
    · exact ((wf.beginFrame n).filled ok filled).of_frame rfl
  | service flags =>
    obtain ⟨u, f, filled, rfl⟩ := execService_filled (flags := flags) h
    exact (wf.ackEvents.filled ok filled).of_frame rfl
  | fill start count closing =>
    obtain ⟨u, f, filled, rfl⟩ := execFill_filled h
    exact (wf.filled ok filled).of_frame rfl
  | ack =>
    cases h
    exact wf.ackEvents
  | setlen n =>
    rcases execSetlen_cases h with ⟨legal, rfl⟩ | rfl
    · exact wf.setLength legal
    · exact wf.of_frame rfl
  | drain => exact wf.drained (execDrain_drained h)
  | poll | enc _ | enc24 _ | zsym | arm | disarm | getcolor _ =>
    cases h
    exact wf.of_frame rfl

theorem step_keeps_wf {s t : State} (wf : s.Wf) (h : step s = .next t) : t.Wf := by
  obtain ⟨hcfg, -, ⟨i, rest, -, -, hexec⟩ | ⟨i, rest, -, -, -, hexec⟩⟩ := step_cases h
  · have taken : ({ s with bench := rest } : State).Wf := wf.of_frame rfl
    exact exec_keeps_wf taken (Config.ok_of hcfg) hexec
  · have taken : ({ s with trace := rest } : State).Wf := wf.of_frame rfl
    exact exec_keeps_wf taken (Config.ok_of hcfg) hexec

/-! Who may write what (R37) -/

theorem execService_writes {flags : EvFlags} {s t : State} (h : execService flags s = .next t) :
    t = { s with buf := t.buf, cursor := t.cursor, done := t.done, circ := t.circ, evh := false, evf := false,
                 calls := t.calls, answers := t.answers, draws := t.draws, fault := t.fault } ∧
    (s.done = true → t.done = true) ∧ (t.circ = true → s.circ = true) ∧ s.calls <+: t.calls := by
  obtain ⟨u, f, filled, rfl⟩ := execService_filled h
  refine ⟨?_, fun done => ?_, fun armed => ?_, filled.calls⟩
  · rw [filled.frame]
    rfl
  · rcases filled.done with same | set
    · exact same.trans done
    · exact set
  · rcases filled.circ with same | cleared
    · exact same.symm.trans armed
    · simp [cleared] at armed

theorem execInit_writes {s t : State} (h : execInit s = .next t) :
    t = { s with done := t.done, len := t.len, rem := t.rem, evh := t.evh, evf := t.evf, irqen := t.irqen,
                 inited := t.inited, fault := t.fault } ∧
    (s.done = true → t.done = true) ∧ (s.irqen = true → t.irqen = true) ∧ (s.inited = true → t.inited = true) ∧
    (t.evh = true → s.evh = true) ∧ (t.evf = true → s.evf = true) ∧ (t.len = s.len ∨ t.len = 0) ∧
    (t.rem = s.rem ∨ t.rem = 0) := by
  rcases execInit_cases h with ⟨-, -, rfl⟩ | rfl
  · exact ⟨rfl, fun _ => rfl, fun _ => rfl, fun _ => rfl, by simp, by simp, .inr rfl, .inr rfl⟩
  · exact ⟨rfl, id, id, id, id, id, .inl rfl, .inl rfl⟩

theorem execStart_writes {n : Int} {s t : State} (h : execStart n s = .next t) :
    t = { s with buf := t.buf, cursor := t.cursor, ledCount := t.ledCount, done := t.done, circ := t.circ, len := t.len,
                 rem := t.rem, wire := t.wire, calls := t.calls, answers := t.answers, draws := t.draws,
                 fault := t.fault } ∧
    (t.done = true → s.done = true) ∧ (s.circ = true → t.circ = true) ∧ (t.len = s.len ∨ t.len = s.cfg.c) ∧
    (t.rem = s.rem ∨ t.rem = s.cfg.c) := by
  rcases execStart_cases h with ⟨f, -, rfl⟩ | ⟨checks, u, filled, circ, rfl | ⟨f, rfl⟩⟩
  · exact ⟨rfl, id, id, .inl rfl, .inl rfl⟩
  · refine ⟨?_, fun _ => (startFault_none.1 checks).2.1, fun _ => rfl, .inr rfl, .inr rfl⟩
    rw [filled.frame]
    rfl
  · refine ⟨?_, fun _ => (startFault_none.1 checks).2.1, circ.trans, .inl filled.len, .inl filled.rem⟩
    rw [filled.frame]
    rfl

/-! The invariant of a run -/

/-- What `State.RunInv` says beside the configuration, the fault, the placed bytes and the shape: circular mode is the
opposite of the flag, and a frame has been started or none has. -/
def State.InPhase (s : State) : Prop := s.circ = (!s.done) ∧ (s.Fresh ∨ ∃ c n, s.Started c n)

theorem State.RunInv.inPhase {s : State} (h : s.RunInv) : s.InPhase := ⟨h.circ, h.phase⟩

/-- Every slot of the Output Buffer holds a value. -/
abbrev State.BufferHolds (s : State) : Prop := ∀ i, i < s.cfg.c → ∃ v, Memory.read s.buf i = some v

/-- Started, with the engine's fields and the model's own anew: the event flags and `REM` have to agree again. -/
theorem State.Started.of_frame {s t : State} {c n : Int} (h : s.Started c n)
    (frame : t = { s with len := t.len, rem := t.rem, evh := t.evh, evf := t.evf, irqen := t.irqen, wire := t.wire,
                          fault := t.fault, result := t.result, trace := t.trace })
    (half : t.evh = true → 0 < t.rem ∧ t.rem ≤ s.cfg.c - s.cfg.h)
    (full : t.evf = true → t.rem = 0 ∨ s.cfg.c - s.cfg.h < t.rem)
    (runs : s.done = false → 0 < t.rem) : t.Started c n := by
  rw [frame]
  exact { cursor := h.cursor, ledCount := h.ledCount, inited := h.inited, countRange := h.countRange,
          cursorLow := h.cursorLow, cursorHigh := h.cursorHigh, cursorAligned := h.cursorAligned,
          terminalIffDone := h.terminalIffDone, slotsHold := h.slotsHold, halfBehind := half, fullBehind := full,
          streamingRuns := runs }

/-- The schedule and the value last returned are no part of a run's phase. -/
theorem State.InPhase.own_fields {s : State} (h : s.InPhase) (bs : List Byte) (r : Option OpResult) :
    State.InPhase { s with trace := bs, result := r } := by
  obtain ⟨circ, fresh | ⟨c, n, started⟩⟩ := h
  · exact ⟨circ, .inl ⟨fresh.cursor, fresh.ledCount, fresh.done, fresh.rem, fresh.noHalf, fresh.noFull⟩⟩
  · exact ⟨circ, .inr ⟨c, n, started.of_frame rfl started.halfBehind started.fullBehind started.streamingRuns⟩⟩

theorem State.RunInv.schedule {s : State} (h : s.RunInv) (bs : List Byte) : State.RunInv { s with trace := bs } :=
  have inPhase : State.InPhase { s with trace := bs } := h.inPhase.own_fields bs s.result
  ⟨h.config, h.noFault, h.noUnit, h.wf.of_frame rfl, inPhase.1, inPhase.2⟩

/-! `SERVICE` in a run -/

theorem Refilled.bufferHolds {half : Half} {found : Bool} {n c c' : Int} {s t : State}
    (h : Refilled half found n c c' s t) (holds : s.BufferHolds) : t.BufferHolds := by
  intro i hi
  rw [h.filled.cfg] at hi
  cases found with
  | false =>
    rw [h.untouched rfl]
    exact holds i hi
  | true =>
    by_cases inside : s.cfg.halfStart half ≤ i ∧ i < s.cfg.halfStart half + s.cfg.h
    · obtain ⟨v, hv⟩ := h.slots rfl (i - s.cfg.halfStart half) (by omega)
      rw [show s.cfg.halfStart half + (i - s.cfg.halfStart half) = i by omega] at hv
      exact ⟨v, hv⟩
    · rw [h.filled.outside i (by omega)]
      exact holds i hi

/-- The handler completes on a started frame: the registers advance and the buffer stays full. -/
theorem execService_completes {s : State} {c n : Int} (ok : s.cfg.Ok) (h : s.Started c n) (flags : EvFlags) :
    ∃ t c', execService flags s = .next t ∧ Filled 0 (s.cfg.h + s.cfg.h) s.ackEvents t ∧
      Advances n c c' s.ackEvents t ∧ t.BufferHolds := by
  obtain ⟨u, t, c1, c2, -, -, body, first, second⟩ := serviceBody_completes ok h.cursor h.ledCount h.cursorAligned
  have filled := serviceBody_filled s
  rw [body] at filled
  refine ⟨t, c2, ?_, filled, first.advances.trans second.advances, ?_⟩
  · rw [execService_eq, body]
    rfl
  · exact second.bufferHolds (first.bufferHolds (s := s.ackEvents) h.slotsHold)

theorem State.Started.serviced {s t : State} {c c' n : Int} {lo hi : Nat} (h : s.Started c n)
    (filled : Filled lo hi s.ackEvents t) (advances : Advances n c c' s.ackEvents t) (holds : t.BufferHolds) :
    t.Started c' n where
  cursor := advances.cursor
  ledCount := filled.ledCount.trans h.ledCount
  inited := filled.inited.trans h.inited
  countRange := h.countRange
  cursorLow := by
    rw [filled.cfg]
    exact h.cursorLow.trans advances.forward
  cursorHigh := advances.high h.countRange h.cursorHigh
  cursorAligned := advances.aligned
  terminalIffDone := advances.terminal h.countRange h.cursorHigh h.terminalIffDone
  slotsHold := holds
  halfBehind pending := by simp [filled.evh] at pending
  fullBehind pending := by simp [filled.evf] at pending
  streamingRuns streaming := by
    have before : s.done = false := by
      rcases filled.done with same | done
      · exact same.symm.trans streaming
      · simp [done] at streaming
    rw [filled.rem]
    exact h.streamingRuns before

/-! `START` in a run -/

/-- The initial fill of a frame completes: it covers the buffer, and is not closing, so the frame streams (R113). -/
theorem initialFill_completes {s : State} {n : Int} (ok : s.cfg.Ok) (countRange : 0 ≤ n) :
    ∃ u c, fillSegment 0 s.cfg.c false (s.beginFrame n) = .go u ∧ Filled 0 s.cfg.c (s.beginFrame n) u ∧
      Advances n (-s.cfg.r) c (s.beginFrame n) u ∧ u.BufferHolds ∧ u.done = false := by
  have aligned : -s.cfg.r < 0 → -s.cfg.r % 3 = 0 := fun _ => by
    have := ok.preGroups
    omega
  have groups : s.cfg.c % 6 = 0 := by
    have := ok.halves
    have := ok.halfGroups
    omega
  obtain ⟨u, c, hfill, fits, advances⟩ := fillSegment_aligned (s := s.beginFrame n) (start := 0) (count := s.cfg.c)
    false (by simp) rfl rfl groups aligned
  have hcfg : u.cfg = s.cfg := fits.filled.cfg
  have inside : Filled 0 s.cfg.c (s.beginFrame n) u := fits.filled.mono le_rfl (by simp)
  refine ⟨u, c, hfill, inside, advances, fun i hi => ?_, ?_⟩
  · rw [hcfg] at hi
    exact ⟨_, by simpa using fits.slots i hi⟩
  · obtain ⟨-, -, reach, -⟩ := cursorAfterData_aligned (c := -s.cfg.r) (count := s.cfg.c) n groups aligned
    have low : cursorAfterData (-s.cfg.r) n s.cfg.c ≠ n + 1 := by
      have := ok.preNonneg
      have := reach countRange (by omega)
      omega
    simp [fits.done, low]

/-- A `START` that passes its checks, with no event pending: the frame is started and streams. -/
theorem execStart_started {s t : State} {n : Int} (ok : s.cfg.Ok) (checks : startFault n s = none)
    (quiet : s.pending = false) (h : execStart n s = .next t) :
    t.fault = s.fault ∧ t.circ = true ∧ t.done = false ∧ ∃ c, t.Started c n := by
  obtain ⟨inited, -, -, countOk⟩ := startFault_none.1 checks
  obtain ⟨noHalf, noFull⟩ := pending_eq_false.1 quiet
  have countRange : 0 ≤ n := by
    simp only [Config.ledCountOk, Bool.and_eq_true, decide_eq_true_eq] at countOk
    exact countOk.1
  obtain ⟨u, c, hfill, filled, advances, holds, streams⟩ := initialFill_completes ok countRange
  have hcfg : u.cfg = s.cfg := filled.cfg
  have slots : 0 < u.cfg.c := by
    rw [hcfg]
    have := ok.halves
    have := ok.halfPos
    omega
  have below : -s.cfg.r ≤ n := by
    have := ok.preNonneg
    omega
  have notTerminal : -s.cfg.r = n + 1 ↔ (s.beginFrame n).done = true := ⟨fun _ => by omega, fun done => by cases done⟩
  simp only [execStart, checks, hfill, Flow.andThen, Flow.finish] at h
  cases h
  refine ⟨filled.fault, rfl, streams, c, ?_⟩
  exact {
    cursor := advances.cursor
    ledCount := filled.ledCount
    inited := filled.inited.trans inited
    countRange := countRange
    cursorLow := by
      show -u.cfg.r ≤ c
      rw [hcfg]
      exact advances.forward
    cursorHigh := advances.high countRange (by omega)
    cursorAligned := advances.aligned
    terminalIffDone := advances.terminal countRange (by omega) notTerminal
    slotsHold := holds
    halfBehind := fun pending => by simp [filled.evh, noHalf] at pending
    fullBehind := fun pending => by simp [filled.evf, noFull] at pending
    streamingRuns := fun _ => slots }

/-! One enabled step -/

/-- What an enabled operation of a run answers: a fault that stands for a broken premise, or a state of the run. -/
def State.StaysInRun (t : State) : Prop :=
  (∃ f, t.fault = some f ∧ f.isPremiseBreach = true) ∨ (t.fault = none ∧ t.InPhase)

theorem State.raise_stays {s : State} (noFault : s.fault = none) {f : Fault} (hf : f.isPremiseBreach = true) :
    (s.raise f).StaysInRun :=
  .inl ⟨f, by simp [noFault], hf⟩

theorem State.RunInv.init_stays {s t : State} (inv : s.RunInv) (h : execInit s = .next t) : t.StaysInRun := by
  rcases execInit_cases h with ⟨done, halted, rfl⟩ | rfl
  · refine .inr ⟨inv.noFault, inv.circ.trans (by simp [done]), ?_⟩
    rcases inv.phase with fresh | ⟨c, n, started⟩
    · exact .inl ⟨fresh.cursor, fresh.ledCount, rfl, rfl, rfl, rfl⟩
    · refine .inr ⟨c, n, started.of_frame ?_ (by simp) (by simp) (by simp [done])⟩
      rw [done, started.inited]
      rfl
  · exact State.raise_stays inv.noFault rfl

theorem State.RunInv.start_stays {s t : State} {n : Int} (inv : s.RunInv)
    (free : s.irqen = false ∨ s.pending = false) (h : execStart n s = .next t) : t.StaysInRun := by
  cases checks : startFault n s with
  | some f =>
    have raised : execStart n s = .next (s.raise f) := by simp [execStart, checks]
    cases h.symm.trans raised
    exact State.raise_stays inv.noFault (startFault_isPremiseBreach checks)
  | none =>
    obtain ⟨inited, -⟩ := startFault_none.1 checks
    have quiet : s.pending = false := by
      rcases free with unarmed | quiet
      · simp [← inv.wf.armedOnce, inited] at unarmed
      · exact quiet
    obtain ⟨noFault, circ, done, c, started⟩ := execStart_started (Config.ok_of inv.config) checks quiet h
    exact .inr ⟨noFault.trans inv.noFault, by simp [circ, done], .inr ⟨c, n, started⟩⟩

theorem State.RunInv.service_stays {s t : State} {flags : EvFlags} (inv : s.RunInv) (pending : s.pending = true)
    (h : execService flags s = .next t) : t.StaysInRun := by
  rcases inv.phase with fresh | ⟨c, n, started⟩
  · simp [State.pending, fresh.noHalf, fresh.noFull] at pending
  · obtain ⟨u, c', hu, filled, advances, holds⟩ := execService_completes (Config.ok_of inv.config) started flags
    cases h.symm.trans hu
    exact .inr ⟨filled.fault.trans inv.noFault,
      advances.opposite started.countRange started.cursorHigh started.terminalIffDone inv.circ,
      .inr ⟨c', n, started.serviced filled advances holds⟩⟩

theorem lapEnd_eq (s : State) : lapEnd s = s.setRem (if s.circ then s.cfg.c else s.rem) := by
  unfold lapEnd
  split_ifs <;> rfl

/-- The event flags stay behind `REM`: a half is drained down to its own event, and an event that is still pending then
underruns (R150). -/
theorem State.RunInv.drain_stays {s t : State} (inv : s.RunInv) (hr : 0 < s.rem) (h : execDrain s = .next t) :
    t.StaysInRun := by
  obtain ⟨c, n, started⟩ := inv.started_of_running hr
  obtain ⟨v, hv⟩ := inv.drained_slot_holds hr
  have ok := Config.ok_of inv.config
  have halves := ok.halves
  have halfPos := ok.halfPos
  have hh : 0 < s.cfg.c - s.cfg.h := by omega
  have half := started.halfBehind
  have full := started.fullBehind
  rcases execDrain_cases hr hh with
    ⟨_, -, ⟨noHalf, noFull, e⟩ | ⟨atHalf, quiet, e⟩ | ⟨atFull, quiet, e⟩ | ⟨-, -, e⟩ | ⟨-, -, e⟩⟩ | ⟨hnone, -⟩
  case inl.inl =>
    cases h.symm.trans e
    refine .inr ⟨inv.noFault, inv.circ, .inr ⟨c, n, started.of_frame rfl (fun pending => ?_) (fun pending => ?_) ?_⟩⟩
    · have := half pending
      show 0 < s.rem - 1 ∧ s.rem - 1 ≤ s.cfg.c - s.cfg.h
      omega
    · have := full pending
      show s.rem - 1 = 0 ∨ s.cfg.c - s.cfg.h < s.rem - 1
      omega
    · show _ → 0 < s.rem - 1
      omega
  case inl.inr.inl =>
    obtain ⟨-, noFull⟩ := pending_eq_false.1 quiet
    cases h.symm.trans e
    refine .inr ⟨inv.noFault, inv.circ, .inr ⟨c, n, started.of_frame rfl ?_ (by simp [noFull]) ?_⟩⟩
    · show _ → 0 < s.rem - 1 ∧ s.rem - 1 ≤ s.cfg.c - s.cfg.h
      omega
    · show _ → 0 < s.rem - 1
      omega
  case inl.inr.inr.inl =>
    obtain ⟨noHalf, -⟩ := pending_eq_false.1 quiet
    rw [lapEnd_eq] at e
    cases h.symm.trans e
    refine .inr ⟨inv.noFault, inv.circ, .inr ⟨c, n, started.of_frame rfl (by simp [noHalf]) (fun _ => ?_) ?_⟩⟩
    · show (if s.circ = true then s.cfg.c else 0) = 0 ∨ s.cfg.c - s.cfg.h < (if s.circ = true then s.cfg.c else 0)
      split_ifs <;> omega
    · intro streaming
      have wraps : s.circ = true := by simp [inv.circ, streaming]
      show 0 < if s.circ = true then s.cfg.c else 0
      rw [if_pos wraps]
      omega
  case inl.inr.inr.inr.inl | inl.inr.inr.inr.inr =>
    cases h.symm.trans e
    refine State.raise_stays ?_ rfl
    exact inv.noFault
  case inr => simp [hv] at hnone

theorem State.RunInv.poll_stays {s t : State} (inv : s.RunInv) (h : execPoll s = .next t) : t.StaysInRun := by
  cases h
  exact .inr ⟨inv.noFault, inv.inPhase.own_fields s.trace (some (.status s.status))⟩

theorem State.RunInv.exec_stays {s t : State} {i : Instr} (inv : s.RunInv) (he : enabled i s = true)
    (h : exec i s = .next t) : t.StaysInRun := by
  obtain ⟨-, ⟨rfl, hr⟩ | ⟨rfl, -, pending⟩ | ⟨rfl | ⟨n, rfl⟩ | rfl, free⟩⟩ := enabled_cases he
  · exact inv.drain_stays hr h
  · exact inv.service_stays (flags := s.evFlags) pending h
  · exact inv.init_stays h
  · exact inv.start_stays free h
  · exact inv.poll_stays h

/-- In a run nothing is placed as a unit: a step is an enabled operation of the schedule. -/
theorem State.RunInv.step_cases {s t : State} (inv : s.RunInv) (h : step s = .next t) :
    ∃ i rest, enabled i s = true ∧ exec i { s with trace := rest } = .next t := by
  obtain ⟨-, -, ⟨i, rest, placed, -, -⟩ | ⟨i, rest, -, -, he, hexec⟩⟩ := Machine.step_cases h
  · exact absurd inv.noUnit placed
  · exact ⟨i, rest, he, hexec⟩

theorem enabled_schedule (i : Instr) (s : State) (bs : List Byte) : enabled i { s with trace := bs } = enabled i s := by
  cases i <;> rfl

theorem State.RunInv.exec_runInv {s t : State} {i : Instr} (inv : s.RunInv) (he : enabled i s = true)
    (h : exec i s = .next t) (noFault : t.fault = none) : t.RunInv := by
  have inputs := exec_keepsInputs h
  rcases inv.exec_stays he h with ⟨f, hf, -⟩ | ⟨-, circ, phase⟩
  · simp [noFault] at hf
  · exact ⟨by rw [inputs.cfg]; exact inv.config, noFault, inputs.bench.trans inv.noUnit,
      exec_keeps_wf inv.wf (Config.ok_of inv.config) h, circ, phase⟩

theorem State.RunInv.exec_breaches {s t : State} {i : Instr} (inv : s.RunInv) (he : enabled i s = true)
    (h : exec i s = .next t) {f : Fault} (hf : t.fault = some f) : f.isPremiseBreach = true := by
  rcases inv.exec_stays he h with ⟨g, hg, breach⟩ | ⟨noFault, -⟩
  · cases hf.symm.trans hg
    exact breach
  · simp [noFault] at hf

/-! The cursor within a frame -/

/-- Every enabled operation of a run but `START` leaves the cursor or advances it, and leaves the LED count. -/
theorem State.RunInv.exec_advances {s t : State} {i : Instr} {c n : Int} (inv : s.RunInv) (hc : s.cursor = some c)
    (hn : s.ledCount = some n) (noStart : ∀ m, i ≠ .start m) (he : enabled i s = true) (h : exec i s = .next t) :
    ∃ c', t.cursor = some c' ∧ c ≤ c' ∧ t.ledCount = some n := by
  obtain ⟨-, ⟨rfl, -⟩ | ⟨rfl, -, -⟩ | ⟨rfl | ⟨m, rfl⟩ | rfl, -⟩⟩ := enabled_cases he
  · rw [(execDrain_drained h).frame]
    exact ⟨c, hc, le_rfl, hn⟩
  · rcases inv.phase with fresh | ⟨d, m, started⟩
    · simp [fresh.cursor] at hc
    · obtain ⟨u, c', hu, filled, advances, -⟩ := execService_completes (Config.ok_of inv.config) started s.evFlags
      cases h.symm.trans hu
      cases hc.symm.trans started.cursor
      exact ⟨c', advances.cursor, advances.forward, filled.ledCount.trans hn⟩
  · rcases execInit_cases h with ⟨-, -, rfl⟩ | rfl <;> exact ⟨c, hc, le_rfl, hn⟩
  · exact absurd rfl (noStart m)
  · cases h
    exact ⟨c, hc, le_rfl, hn⟩

/-! The state after reset (R38) -/

theorem resetWith_wf (cfg : Config) : (State.resetWith cfg).Wf where
  bufSorted := List.Pairwise.nil
  bufInside _ he := absurd he List.not_mem_nil
  bufWidth _ he := absurd he List.not_mem_nil
  wireWidth _ hv := absurd hv List.not_mem_nil
  lenRange := .inl rfl
  remRange := Nat.zero_le _
  armedOnce := rfl
  oneFlag both := Bool.false_ne_true both.1

theorem resetWith_fresh (cfg : Config) : (State.resetWith cfg).Fresh := ⟨rfl, rfl, rfl, rfl, rfl, rfl⟩

theorem resetWith_runInv {cfg : Config} (h : cfg.firstFailing = none) : (State.resetWith cfg).RunInv where
  config := h
  noFault := rfl
  noUnit := rfl
  wf := resetWith_wf cfg
  circ := rfl
  phase := .inl (resetWith_fresh cfg)

theorem initial_firstFailing : Config.initial.firstFailing = none := by decide

/-- Inside the buffer, a `FILL` that finds no cursor stops there (R102). -/
theorem fillSegment_without_cursor {start count : Nat} (closing : Bool) {s : State} (hin : start + count ≤ s.cfg.c)
    (hc : s.cursor = none) : fillSegment start count closing s = .raised (.uninitialised .cursor) s := by
  simp [fillSegment, Config.segmentInside, hin, hc]

theorem execDrain_empty_slot {s : State} (hr : 0 < s.rem) (hv : Memory.read s.buf (s.cfg.c - s.rem) = none) :
    execDrain s = .next (s.raise (.uninitialised (.slot (s.cfg.c - s.rem)))) := by
  simp [execDrain, Nat.pos_iff_ne_zero.1 hr, hv]

end Sys2Proof.Machine

/-! The obligations of spec/10_state.md -/

section
open Sys2Proof Sys2Proof.Machine

/-- Settles O42: what each operation leaves, one case per operation. -/
theorem stepKeepsTheStateWellFormed : Obligations.StepKeepsTheStateWellFormed :=
  fun _ _ => step_keeps_wf

/-- Settles O43: a step of a run is an enabled operation, and each keeps the run's phase or raises a breach. -/
theorem runStepKeepsTheRunInvariant : Obligations.RunStepKeepsTheRunInvariant := by
  intro s t inv hstep
  obtain ⟨i, rest, he, hexec⟩ := inv.step_cases hstep
  have inv' := inv.schedule rest
  have he' : enabled i { s with trace := rest } = true := (enabled_schedule i s rest).trans he
  exact ⟨inv'.exec_runInv he' hexec, fun _ => inv'.exec_breaches he' hexec⟩

/-- Settles O41: no operation is given the configuration to write. -/
theorem stepKeepsTheConfiguration : Obligations.StepKeepsTheConfiguration :=
  fun _ _ => step_keeps_cfg

/-- Settles O45: only `SERVICE` moves the cursor, and its refills move it forward. -/
theorem cursorNeverDecreasesWithinAFrame : Obligations.CursorNeverDecreasesWithinAFrame := by
  intro s t i c n inv hc hn noStart hstep
  obtain ⟨-, he, hexec⟩ := agentStep_cases hstep
  exact inv.exec_advances hc hn noStart he hexec

/-- Settles O46: each operation's frame. -/
theorem eachAgentWritesOnlyItsOwnState : Obligations.EachAgentWritesOnlyItsOwnState := by
  refine ⟨fun s t h => ?_, fun s t f h => execService_writes (flags := f) h, fun s t h => ?_,
    fun s t h => execInit_writes h, fun s t n h => execStart_writes h⟩
  · have drained := execDrain_drained h
    refine ⟨drained.frame, drained.evh, drained.evf, ?_⟩
    rcases drained.wire with same | ⟨v, -, longer⟩
    · rw [same]
    · rw [longer]
      exact List.prefix_append _ _
  · cases h
    rfl

/-- Settles O8: the recorded fault is looked at before the operation. -/
theorem noStepAfterAFault : Obligations.NoStepAfterAFault := by
  intro s f hc hf
  refine ⟨?_, fun i => ⟨?_, ?_⟩, fun g => ?_⟩
  · simp [step, hc, hf]
  · simp [enabled, hf]
  · simp [agentStep, hf]
  · simp [hf]

/-- Settles O39: what reads a register or a slot after reset finds no value. -/
theorem resetLeavesTheListedValues : Obligations.ResetLeavesTheListedValues := by
  intro cfg
  refine ⟨⟨rfl, fun _ => rfl, rfl, rfl, rfl, rfl, rfl, rfl, rfl, rfl, rfl, rfl, rfl, rfl, rfl⟩, rfl, ?_, ?_⟩
  · intro start count closing inside
    have raises := fillSegment_without_cursor (s := State.resetWith cfg) closing inside rfl
    exact congrArg Flow.finish raises
  · intro r running _
    exact execDrain_empty_slot (s := { State.resetWith cfg with rem := r }) running rfl

/-- Settles O40: no frame has been started, and no slot or trace holds a symbol. -/
theorem resetMeetsTheInvariants : Obligations.ResetMeetsTheInvariants :=
  ⟨fun cfg h => ⟨resetWith_wf cfg, resetWith_runInv h⟩, resetWith_wf _, resetWith_runInv initial_firstFailing⟩

end

/-! Decoding: what an operation that decodes was read from (spec/30_encoding.md R69 to R71) -/

namespace Sys2Proof

/-- Bytes that were read are the number's own, above the number read before them. -/
theorem takeBytes_eq_some {n acc v : Nat} {bs rest : List Byte} (h : takeBytes n bs acc = some (v, rest)) :
    bs = putBytes n v ++ rest ∧ v / 256 ^ n = acc := by
  induction n generalizing bs acc with
  | zero =>
    cases h
    exact ⟨rfl, Nat.div_one _⟩
  | succ n ih =>
    cases bs with
    | nil => cases h
    | cons b bs =>
      obtain ⟨hbs, hv⟩ := ih h
      have hb : BitVec.ofNat 8 (v / 256 ^ n) = b := by
        rw [hv]
        apply BitVec.eq_of_toNat_eq
        have := b.isLt
        rw [BitVec.toNat_ofNat]
        omega
      refine ⟨?_, ?_⟩
      · rw [putBytes, hb, List.cons_append, ← hbs]
      · rw [pow_succ, ← Nat.div_div_eq_div_mul, hv]
        have := b.isLt
        omega

theorem takeUnsigned_eq_ok {opc : Byte} {n v : Nat} {bs rest : List Byte}
    (h : takeUnsigned opc n bs = .ok (v, rest)) : v < 256 ^ n ∧ bs = putBytes n v ++ rest := by
  unfold takeUnsigned at h
  split at h
  · cases h
    obtain ⟨hbs, hv⟩ := takeBytes_eq_some ‹_›
    exact ⟨(Nat.div_eq_zero_iff_lt (by positivity)).1 hv, hbs⟩
  · cases h

theorem takeSigned_eq_ok {cfg : Config} {opc : Byte} {v : Int} {bs rest : List Byte}
    (h : takeSigned cfg opc bs = .ok (v, rest)) : fitsSigned cfg.cw v ∧ bs = putSigned cfg v ++ rest := by
  unfold takeSigned at h
  split at h
  · cases h
  · rename_i w _ hw
    split_ifs at h with hlt
    cases h
    obtain ⟨hbs, -⟩ := takeBytes_eq_some hw
    refine ⟨⟨BitVec.le_two_mul_toInt, BitVec.two_mul_toInt_lt⟩, ?_⟩
    rw [putSigned, BitVec.ofInt_toInt, BitVec.toNat_ofNat, Nat.mod_eq_of_lt hlt]
    exact hbs

/-- The code byte of an operation of a row of R70, with the fields that a byte carries. -/
def OpName.codeWith (fields : Byte) : OpName → Byte
  | .init => 0x10
  | .start => 0x11
  | .poll => 0x12
  | .service => 0x20 ||| (fields.setWidth 2).setWidth 8
  | .fill => if fields.getLsbD 0 then 0x31 else 0x30
  | .enc => 0x40 ||| (fields.setWidth 4).setWidth 8
  | .enc24 => 0x50
  | .zsym => 0x51
  | .ack => 0x60
  | .arm => 0x61
  | .disarm => 0x62
  | .setlen => 0x63
  | .drain => 0x70
  | .getcolor => 0x80

/-- A code byte is its row's pattern and its own fields: R70 leaves no other bit free. -/
theorem code_of_selectOp {opc : Byte} {name : OpName} (h : selectOp opc = some name) : opc = name.codeWith opc := by
  revert opc
  cases name <;> decide

theorem exists_of_map_eq_ok {ε α β : Type} {x : Except ε α} {f : α → β} {b : β} (h : x.map f = .ok b) :
    ∃ a, x = .ok a ∧ f a = b := by
  cases x with
  | error e => cases h
  | ok a =>
    cases h
    exact ⟨a, rfl, rfl⟩

/-! Reserved codes (R71) -/

/-- The codes that R70 assigns. -/
def assignedCodes : List Nat :=
  [0x10, 0x11, 0x12, 0x20, 0x21, 0x22, 0x23, 0x30, 0x31] ++ (List.range 16).map (0x40 + ·) ++
    [0x50, 0x51, 0x60, 0x61, 0x62, 0x63, 0x70, 0x80]

theorem selectOp_of_reserved : ∀ opc : Byte, opc.toNat ∉ assignedCodes → selectOp opc = none := by decide

/-- No code above 0x80 is assigned, and 96 of those up to it are reserved. -/
theorem assignedCodes_complement : ((List.range 256).filter fun k => k ∉ assignedCodes).length = 223 := by
  have split : List.range 256 = List.range 129 ++ (List.range 127).map (129 + ·) :=
    List.range_add (n := 129) (m := 127)
  have low : ((List.range 129).filter fun k => k ∉ assignedCodes).length = 96 := by decide
  have top : ∀ k ∈ assignedCodes, k < 129 := by decide
  have high : ∀ k ∈ (List.range 127).map (129 + ·), decide (k ∉ assignedCodes) = true := by
    intro k hk
    obtain ⟨j, -, rfl⟩ := List.mem_map.1 hk
    exact decide_eq_true fun assigned => by have := top _ assigned; omega
  rw [split, List.filter_append, List.filter_eq_self.2 high, List.length_append, low, List.length_map,
    List.length_range]

theorem decode_of_reserved {opc : Byte} (h : selectOp opc = none) (cfg : Config) (bs : List Byte) :
    decode cfg (opc :: bs) = .error (.reserved opc) := by
  simp only [decode, h]

/-- A schedule whose next bytes are no operation refuses the step. -/
theorem Machine.step_of_trace_error {s : Machine.State} {e : DecodeError} (hc : s.cfg.firstFailing = none)
    (hf : s.fault = none) (hb : s.bench = []) (h : decode s.cfg s.trace = .error e) :
    Machine.step s = .refused (Machine.Refusal.ofDecode e) := by
  simp [Machine.step, hc, hf, Machine.fetch, hb, Machine.fetchScheduled, h]

end Sys2Proof

/-! The obligations of spec/30_encoding.md: the codes and their bytes -/

section
open Sys2Proof Sys2Proof.Machine

/-- Settles O1, one operation at a time. -/
theorem decodeOfEncodeIsTheOperation : Obligations.DecodeOfEncodeIsTheOperation := by
  intro cfg i rest wf
  cases i with
  | init => exact Laws.RoundTrip.init cfg rest wf
  | start n => exact Laws.RoundTrip.start n cfg rest wf
  | poll => exact Laws.RoundTrip.poll cfg rest wf
  | service flags => exact Laws.RoundTrip.service flags cfg rest wf
  | fill start count closing => exact Laws.RoundTrip.fill start count closing cfg rest wf
  | enc n => exact Laws.RoundTrip.enc n cfg rest wf
  | enc24 c => exact Laws.RoundTrip.enc24 c cfg rest wf
  | zsym => exact Laws.RoundTrip.zsym cfg rest wf
  | ack => exact Laws.RoundTrip.ack cfg rest wf
  | arm => exact Laws.RoundTrip.arm cfg rest wf
  | disarm => exact Laws.RoundTrip.disarm cfg rest wf
  | setlen len => exact Laws.RoundTrip.setlen len cfg rest wf
  | drain => exact Laws.RoundTrip.drain cfg rest wf
  | getcolor index => exact Laws.RoundTrip.getcolor index cfg rest wf

/-- Settles O4: a code that no row selects is refused by the decoder, and the step with it. -/
theorem reservedCodesAreRefused : Obligations.ReservedCodesAreRefused := by
  refine ⟨fun opc reserved => ?_, assignedCodes_complement⟩
  have none := selectOp_of_reserved opc reserved
  refine ⟨decode_of_reserved none, fun s bs hc hf hb ht => ?_⟩
  exact step_of_trace_error hc hf hb (ht ▸ decode_of_reserved none s.cfg bs)

/-- Settles O2: the row of R70 that the code byte selects fixes the byte, and the operand bytes are the operand's own. -/
theorem decodedBytesAreTheEncoding : Obligations.DecodedBytesAreTheEncoding := by
  intro cfg bs i rest h
  cases bs with
  | nil => cases h
  | cons opc bs =>
    cases row : selectOp opc with
    | none => simp [decode, row] at h
    | some name =>
      have code := code_of_selectOp row
      simp only [decode, row] at h
      cases name with
      | init | poll | service | enc | zsym | ack | arm | disarm | drain =>
        cases h
        exact ⟨rfl, congrArg (· :: rest) code⟩
      | start | getcolor =>
        obtain ⟨⟨v, rest'⟩, read, made⟩ := exists_of_map_eq_ok h
        cases made
        obtain ⟨fits, bytes⟩ := takeSigned_eq_ok read
        exact ⟨decide_eq_true fits, congrArg₂ List.cons code bytes⟩
      | setlen =>
        obtain ⟨⟨v, rest'⟩, read, made⟩ := exists_of_map_eq_ok h
        cases made
        obtain ⟨fits, bytes⟩ := takeUnsigned_eq_ok read
        exact ⟨decide_eq_true fits, congrArg₂ List.cons code bytes⟩
      | enc24 =>
        obtain ⟨⟨v, rest'⟩, read, made⟩ := exists_of_map_eq_ok h
        cases made
        obtain ⟨fits, bytes⟩ := takeUnsigned_eq_ok read
        refine ⟨rfl, ?_⟩
        have bits : (BitVec.ofNat 24 v).toNat = v := by
          rw [BitVec.toNat_ofNat]
          omega
        simp only [encode, bits]
        exact congrArg₂ List.cons code bytes
      | fill =>
        cases first : takeUnsigned opc cfg.slotBytes bs with
        | error e => simp [first] at h
        | ok r =>
          obtain ⟨start, bs'⟩ := r
          simp only [first] at h
          obtain ⟨⟨count, rest'⟩, second, made⟩ := exists_of_map_eq_ok h
          cases made
          obtain ⟨startFits, startBytes⟩ := takeUnsigned_eq_ok first
          obtain ⟨countFits, countBytes⟩ := takeUnsigned_eq_ok second
          refine ⟨by simp [Instr.wf, startFits, countFits], ?_⟩
          rw [encode, List.cons_append, List.append_assoc, ← countBytes, ← startBytes]
          exact congrArg (· :: bs) code

/-- Settles O3, by running the decoder on each word. -/
theorem listedWordsDecode : Obligations.ListedWordsDecode :=
  ⟨rfl, rfl, rfl, rfl, rfl, rfl, rfl, rfl, rfl, rfl⟩

end

/-! The logical stream under the engine, the handler and the eager schedule (spec/41_segment_filler.md R103, R104,
spec/30_encoding.md R73) -/

namespace Sys2Proof

theorem Config.Ok.slotsPos {cfg : Config} (ok : cfg.Ok) : 0 < cfg.c := by
  have := ok.halves
  have := ok.halfPos
  omega

end Sys2Proof

namespace Sys2Proof.Machine

/-! Laps and halves in numbers: `H` slots a half, `L` symbols shifted out, `r` slots left in the lap (spec/44 R147, R148) -/

/-- Away from the two firing slots a `DRAIN` stays inside its half. -/
theorem half_of_quiet {H L r : Nat} (lap : (L + r) % (2 * H) = 0) (range : r ≤ 2 * H) (running : 0 < r)
    (noHalf : r - 1 ≠ H) (noFull : r ≠ 1) : (L + 1) / H = L / H := by
  have hH : ¬ H ∣ L + 1 := by
    rintro ⟨j, hj⟩
    obtain ⟨k, hk⟩ := Nat.dvd_of_mod_eq_zero lap
    have e : r - 1 = H * (2 * k - j) := by
      rw [Nat.mul_sub, show H * (2 * k) = 2 * H * k by ring]
      omega
    rcases Nat.lt_or_ge (2 * k - j) 2 with small | large
    · interval_cases 2 * k - j <;> omega
    · have := Nat.mul_le_mul_left H large
      omega
  rw [Nat.succ_div, if_neg hH, Nat.add_zero]

/-- The slot `H - 1` ends the first half of a lap. -/
theorem half_of_halfDrained {H L r : Nat} (lap : (L + r) % (2 * H) = 0) (pos : 0 < H) (atHalf : r = H + 1) :
    (L + 1) / H = L / H + 1 ∧ (L + 1) / H % 2 = 1 := by
  obtain ⟨k, hk⟩ := Nat.dvd_of_mod_eq_zero lap
  obtain ⟨j, rfl⟩ : ∃ j, k = j + 1 := Nat.exists_eq_succ_of_ne_zero (by rintro rfl; omega)
  have e : L + 1 = H * (2 * j + 1) := by
    have : 2 * H * (j + 1) = H * (2 * j + 1) + H := by ring
    omega
  have next : (L + 1) / H = 2 * j + 1 := by rw [e, Nat.mul_div_cancel_left _ pos]
  have := Nat.succ_div (a := L) (b := H)
  rw [if_pos ⟨_, e⟩] at this
  omega

/-- The slot `C - 1` ends the second half of a lap. -/
theorem half_of_fullDrained {H L : Nat} (lap : (L + 1) % (2 * H) = 0) (pos : 0 < H) :
    (L + 1) / H = L / H + 1 ∧ (L + 1) / H % 2 = 0 ∧ H ≤ L + 1 := by
  obtain ⟨k, hk⟩ := Nat.dvd_of_mod_eq_zero lap
  have e : L + 1 = H * (2 * k) := by rw [hk]; ring
  have next : (L + 1) / H = 2 * k := by rw [e, Nat.mul_div_cancel_left _ pos]
  have := Nat.succ_div (a := L) (b := H)
  rw [if_pos ⟨_, e⟩] at this
  exact ⟨this, by omega, Nat.le_of_dvd (by omega) ⟨_, e⟩⟩

/-- A remainder, from the quotient and the remainder written out. -/
theorem mod_of_eq {C i k j : Nat} (h : i = C * k + j) (hj : j < C) : i % C = j := by
  rw [h, Nat.mul_add_mod, Nat.mod_eq_of_lt hj]

/-! How far the producer is (R103) -/

theorem producedAt_of_pending {s : State} (ok : s.cfg.Ok) (h : s.pending = true) :
    producedAt s = s.cfg.h * (s.wire.length / s.cfg.h) + s.cfg.h := by
  rw [producedAt, if_pos h, ok.halves]
  omega

theorem producedAt_of_served {s : State} (h : s.pending = false) :
    producedAt s = s.cfg.c + s.cfg.h * (s.wire.length / s.cfg.h) := by
  rw [producedAt, h]
  rfl

/-- The producer is ahead of the engine, by a lap at most. -/
theorem producedAt_bounds {s : State} (ok : s.cfg.Ok) :
    s.wire.length < producedAt s ∧ producedAt s ≤ s.wire.length + s.cfg.c := by
  have below := Nat.mul_div_le s.wire.length s.cfg.h
  have above := Nat.lt_mul_div_succ s.wire.length ok.halfPos
  rw [Nat.mul_add] at above
  have := ok.halves
  cases h : s.pending with
  | true => rw [producedAt_of_pending ok h]; omega
  | false => rw [producedAt_of_served h]; omega

/-- `producedAt` reads the configuration, the length of the wire and the event flags. -/
theorem producedAt_congr {s t : State} (cfg : t.cfg = s.cfg) (halves : t.wire.length / s.cfg.h = s.wire.length / s.cfg.h)
    (pending : t.pending = s.pending) : producedAt t = producedAt s := by
  simp only [producedAt, cfg, halves, pending]

/-! The engine in a stream -/

/-- The slot the engine streams next holds the next symbol of the stream. -/
theorem State.Streams.drained_slot {f : Nat → Colour} {n : Nat} {s : State} (h : s.Streams f n) (running : 0 < s.rem) :
    Memory.read s.buf (s.cfg.c - s.rem) = some (streamSymbol s.cfg f n s.wire.length) := by
  obtain ⟨ahead, within⟩ := producedAt_bounds (Config.ok_of h.config)
  rw [← h.buffer s.wire.length within ahead]
  congr 1
  obtain ⟨k, hk⟩ := Nat.dvd_of_mod_eq_zero h.lap
  have range := h.remRange
  obtain ⟨j, rfl⟩ := Nat.exists_eq_succ_of_ne_zero (n := k) (by rintro rfl; omega)
  rw [Nat.mul_succ] at hk
  exact (mod_of_eq (k := j) (by omega) (by omega)).symm

/-- The stream with one symbol more on the wire: the engine's fields have to agree again. -/
theorem State.Streams.emitted {f : Nat → Colour} {n : Nat} {s t : State} (h : s.Streams f n)
    (frame : t = { s with rem := t.rem, evh := t.evh, evf := t.evf,
                          wire := s.wire ++ [streamSymbol s.cfg f n s.wire.length] })
    (produced : producedAt t = producedAt s) (oneFlag : ¬(t.evh = true ∧ t.evf = true)) (remRange : t.rem ≤ s.cfg.c)
    (lap : (s.wire.length + 1 + t.rem) % s.cfg.c = 0)
    (halfParity : t.evh = true → (s.wire.length + 1) / s.cfg.h % 2 = 1)
    (fullParity : t.evf = true → (s.wire.length + 1) / s.cfg.h % 2 = 0 ∧ s.cfg.h ≤ s.wire.length + 1)
    (runs : s.done = false → 0 < t.rem) (last : s.done = true → s.wire.length + 1 + t.rem = s.wire.length + s.rem) :
    t.Streams f n := by
  have length : t.wire.length = s.wire.length + 1 := by rw [frame]; simp
  have cfg : t.cfg = s.cfg := by rw [frame]
  have done : t.done = s.done := by rw [frame]
  exact {
    config := by rw [cfg]; exact h.config
    noFault := by rw [frame]; exact h.noFault
    armed := by rw [frame]; exact h.armed
    ledCount := by rw [frame]; exact h.ledCount
    oneFlag := oneFlag
    wire := by
      rw [length, cfg, List.range_succ, List.map_append, ← h.wire, frame]
      rfl
    remRange := by rw [cfg]; exact remRange
    lap := by rw [cfg, length]; exact lap
    halfParity := by rw [cfg, length]; exact halfParity
    fullParity := by rw [cfg, length]; exact fullParity
    buffer := by
      rw [produced, cfg]
      rw [frame]
      exact h.buffer
    circ := by rw [frame]; exact h.circ
    cursor := by
      rw [produced, cfg, done]
      rw [frame]
      exact h.cursor
    calls := by
      rw [produced, cfg]
      rw [frame]
      exact h.calls
    colours := by
      rw [produced, cfg]
      rw [frame]
      exact h.colours
    streaming := by
      rw [produced, cfg, done]
      exact fun streaming => ⟨runs streaming, (h.streaming streaming).2⟩
    closing := by
      rw [produced, cfg, done, length]
      intro closed
      obtain ⟨filled, drained, total⟩ := h.closing closed
      exact ⟨filled, by omega, (last closed).trans total⟩ }

/-- What one `DRAIN` without a fault leaves of a stream. -/
structure DrainsStream (f : Nat → Colour) (n : Nat) (s t : State) : Prop where
  streams : t.Streams f n
  frame : t = { s with rem := t.rem, evh := t.evh, evf := t.evf, wire := t.wire }
  length : t.wire.length = s.wire.length + 1
  fires : (t.pending = s.pending ∧ t.wire.length / s.cfg.h = s.wire.length / s.cfg.h) ∨
    (s.pending = false ∧ t.pending = true ∧ t.wire.length / s.cfg.h = s.wire.length / s.cfg.h + 1)

/-- The produced symbols are the same after an event that fires: a half is due, and one more is drained. -/
theorem producedAt_of_fired {s t : State} (ok : s.cfg.Ok) (cfg : t.cfg = s.cfg) (served : s.pending = false)
    (fired : t.pending = true) (halves : t.wire.length / s.cfg.h = s.wire.length / s.cfg.h + 1) :
    producedAt t = producedAt s := by
  rw [producedAt_of_pending (by rw [cfg]; exact ok) fired, producedAt_of_served served, cfg, halves, ok.halves]
  ring

/-- The engine counts down inside its lap. -/
theorem State.Streams.drains_quiet {f : Nat → Colour} {n : Nat} {s : State} (h : s.Streams f n) (running : 0 < s.rem)
    (noHalf : s.rem - 1 ≠ s.cfg.h) (noFull : s.rem ≠ 1) :
    DrainsStream f n s ((s.emit (streamSymbol s.cfg f n s.wire.length)).setRem (s.rem - 1)) := by
  have lap := h.lap
  have range := h.remRange
  have halves := (Config.ok_of h.config).halves
  have same : (s.wire.length + 1) / s.cfg.h = s.wire.length / s.cfg.h :=
    half_of_quiet (r := s.rem) (by rwa [← halves]) (by omega) running noHalf noFull
  have count : s.wire.length + 1 + (s.rem - 1) = s.wire.length + s.rem := by omega
  refine ⟨h.emitted rfl (producedAt_congr rfl (by simpa using same) rfl) h.oneFlag ?_ ?_ ?_ ?_ ?_ (fun _ => count), rfl,
    by simp, .inl ⟨rfl, by simpa using same⟩⟩
  · show s.rem - 1 ≤ s.cfg.c
    omega
  · rw [State.setRem_rem, count]
    exact lap
  · rw [same]
    exact h.halfParity
  · rw [same]
    exact fun pending => ⟨(h.fullParity pending).1, by have := (h.fullParity pending).2; omega⟩
  · show _ → 0 < s.rem - 1
    omega

/-- The engine ends the first half of a lap. -/
theorem State.Streams.drains_half {f : Nat → Colour} {n : Nat} {s : State} (h : s.Streams f n)
    (atHalf : s.rem = s.cfg.h + 1) (served : s.pending = false) :
    DrainsStream f n s (((s.emit (streamSymbol s.cfg f n s.wire.length)).setRem (s.rem - 1)).setEvent .half) := by
  have ok := Config.ok_of h.config
  have lap := h.lap
  have range := h.remRange
  have pos := ok.halfPos
  obtain ⟨next, odd⟩ := half_of_halfDrained (r := s.rem) (by rwa [← ok.halves]) pos atHalf
  obtain ⟨-, noFull⟩ := pending_eq_false.1 served
  have fired : (((s.emit (streamSymbol s.cfg f n s.wire.length)).setRem (s.rem - 1)).setEvent .half).pending = true := by
    simp [State.pending]
  have count : s.wire.length + 1 + (s.rem - 1) = s.wire.length + s.rem := by omega
  refine ⟨h.emitted rfl (producedAt_of_fired ok rfl served fired (by simpa using next)) (by simp [noFull]) ?_ ?_
    (fun _ => odd) (by simp [noFull]) ?_ (fun _ => count), rfl, by simp, .inr ⟨served, fired, by simpa using next⟩⟩
  · show s.rem - 1 ≤ s.cfg.c
    omega
  · rw [State.setEvent_half_rem, State.setRem_rem, count]
    exact lap
  · show _ → 0 < s.rem - 1
    omega

/-- The engine ends a lap: it wraps in circular mode, else it halts. -/
theorem State.Streams.drains_full {f : Nat → Colour} {n : Nat} {s : State} (h : s.Streams f n)
    (atFull : s.rem = 1) (served : s.pending = false) :
    DrainsStream f n s (lapEnd (((s.emit (streamSymbol s.cfg f n s.wire.length)).setRem 0).setEvent .full)) := by
  have ok := Config.ok_of h.config
  have lap := h.lap
  rw [atFull] at lap
  have pos := ok.halfPos
  obtain ⟨next, even, behind⟩ := half_of_fullDrained (L := s.wire.length) (by rwa [← ok.halves]) pos
  obtain ⟨noHalf, -⟩ := pending_eq_false.1 served
  rw [lapEnd_eq]
  have fired : ((((s.emit (streamSymbol s.cfg f n s.wire.length)).setRem 0).setEvent .full).setRem
      (if s.circ then s.cfg.c else 0)).pending = true := by
    simp [State.pending]
  refine ⟨h.emitted rfl (producedAt_of_fired ok rfl served fired (by simpa using next)) (by simp [noHalf]) ?_ ?_
    (by simp [noHalf]) (fun _ => ⟨even, behind⟩) (fun streaming => ?_) (fun closed => ?_), rfl, by simp,
    .inr ⟨served, fired, by simpa using next⟩⟩
  · show (if s.circ = true then s.cfg.c else 0) ≤ s.cfg.c
    split_ifs <;> omega
  · show (s.wire.length + 1 + if s.circ = true then s.cfg.c else 0) % s.cfg.c = 0
    split_ifs <;> simp [lap]
  · have wraps : s.circ = true := by simp [h.circ, streaming]
    have := ok.halves
    show 0 < if s.circ = true then s.cfg.c else 0
    rw [if_pos wraps]
    omega
  · have halts : s.circ = false := by simp [h.circ, closed]
    simp [halts, atFull]

/-- Every `DRAIN` that raises no fault streams the next symbol (R146 to R148). -/
theorem State.Streams.drains {f : Nat → Colour} {n : Nat} {s t : State} (h : s.Streams f n) (running : 0 < s.rem)
    (step : execDrain s = .next t) (noFault : t.fault = none) : DrainsStream f n s t := by
  have ok := Config.ok_of h.config
  have halves := ok.halves
  have pos := ok.halfPos
  have slot := h.drained_slot running
  rcases execDrain_cases running (by omega) with
    ⟨v, hv, ⟨noHalf, noFull, e⟩ | ⟨atHalf, served, e⟩ | ⟨atFull, served, e⟩ | ⟨-, -, e⟩ | ⟨-, -, e⟩⟩ | ⟨hnone, -⟩
  case inr => simp [hnone] at slot
  case inl.inr.inr.inr.inl | inl.inr.inr.inr.inr =>
    cases step.symm.trans e
    simp at noFault
  all_goals
    obtain rfl := Option.some.inj (hv.symm.trans slot)
    cases step.symm.trans e
  case inl.inl => exact h.drains_quiet running (by omega) noFull
  case inl.inr.inl => exact h.drains_half (by omega) served
  case inl.inr.inr.inl => exact h.drains_full atFull served

/-! The handler in a stream -/

/-- Which half an event hands to the handler (R127, R128). -/
def State.dueHalf (s : State) : Half := if s.evh then .first else .second

/-- With one event pending the handler is one `FILL` of the half that is due. -/
theorem execService_of_pending {s : State} (flags : EvFlags) (pending : s.pending = true)
    (oneFlag : ¬(s.evh = true ∧ s.evf = true)) :
    execService flags s =
      (fillSegment (s.cfg.halfStart s.dueHalf) s.cfg.h (s.cfg.closingBit s.dueHalf) s.ackEvents).finish := by
  rw [execService_eq]
  congr 1
  cases hh : s.evh <;> cases hf : s.evf
  · simp [State.pending, hh, hf] at pending
  · simp [serviceBody, refillHalf, hh, hf, Flow.andThen, State.dueHalf]
  · simp only [serviceBody, refillHalf, hh, hf, State.dueHalf, if_true, State.ackEvents_cfg]
    cases fillSegment (s.cfg.halfStart .first) s.cfg.h (s.cfg.closingBit .first) s.ackEvents <;> rfl
  · exact absurd ⟨hh, hf⟩ oneFlag

/-- The handler fills the half that follows what the producer has written, in lap `k` (R103). -/
theorem State.Streams.due {f : Nat → Colour} {n : Nat} {s : State} (h : s.Streams f n) (pending : s.pending = true) :
    ∃ k, 1 ≤ k ∧ producedAt s = s.cfg.c * k + s.cfg.halfStart s.dueHalf := by
  have ok := Config.ok_of h.config
  have halves := ok.halves
  have produced := producedAt_of_pending ok pending
  cases hh : s.evh with
  | true =>
    have odd := h.halfParity hh
    obtain ⟨j, hj⟩ : ∃ j, s.wire.length / s.cfg.h = 2 * j + 1 := ⟨s.wire.length / s.cfg.h / 2, by omega⟩
    refine ⟨j + 1, by omega, ?_⟩
    rw [produced, hj, halves, State.dueHalf, if_pos hh, Config.halfStart]
    ring
  | false =>
    have hf : s.evf = true := by simpa [State.pending, hh] using pending
    obtain ⟨even, behind⟩ := h.fullParity hf
    have one : 1 ≤ s.wire.length / s.cfg.h := (Nat.one_le_div_iff ok.halfPos).2 behind
    obtain ⟨j, hj⟩ : ∃ j, s.wire.length / s.cfg.h = 2 * j := ⟨s.wire.length / s.cfg.h / 2, by omega⟩
    refine ⟨j, by omega, ?_⟩
    rw [produced, hj, halves, State.dueHalf, if_neg (by simp [hh]), Config.halfStart]
    ring

/-- The slots after a refill: the new half in its place, the other half as before. -/
theorem Window.buffer {f : Nat → Colour} {n q k : Nat} {half : Half} {closing : Bool} {c : Int} {s t : State}
    (ok : s.cfg.Ok) (w : Window f n q (s.cfg.halfStart half) s.cfg.h closing c s t)
    (hq : q = s.cfg.c * k + s.cfg.halfStart half)
    (buffer : ∀ i, q ≤ i + s.cfg.c → i < q → Memory.read s.buf (i % s.cfg.c) = some (streamSymbol s.cfg f n i))
    {i : Nat} (lo : q + s.cfg.h ≤ i + s.cfg.c) (hi : i < q + s.cfg.h) :
    Memory.read t.buf (i % s.cfg.c) = some (streamSymbol s.cfg f n i) := by
  have halves := ok.halves
  have start : s.cfg.halfStart half + s.cfg.h ≤ s.cfg.c := by cases half <;> simp only [Config.halfStart] <;> omega
  rcases Nat.lt_or_ge i q with old | new
  · rw [w.filled.outside _ ?_]
    · exact buffer i (by omega) old
    · cases half with
      | first =>
        simp only [Config.halfStart] at hq ⊢
        obtain ⟨j, rfl⟩ := Nat.exists_eq_succ_of_ne_zero (n := k) (by rintro rfl; omega)
        rw [Nat.mul_succ] at hq
        have := mod_of_eq (C := s.cfg.c) (i := i) (k := j) (j := i - s.cfg.c * j) (by omega) (by omega)
        omega
      | second =>
        simp only [Config.halfStart] at hq ⊢
        have := mod_of_eq (C := s.cfg.c) (i := i) (k := k) (j := i - s.cfg.c * k) (by omega) (by omega)
        omega
  · have place := mod_of_eq (C := s.cfg.c) (i := i) (k := k) (j := s.cfg.halfStart half + (i - q)) (by omega) (by omega)
    rw [place, w.slots _ (by omega)]
    congr 2
    omega

/-- The lap in which a frame closes (R104). -/
theorem closingLap_eq {cfg : Config} {n k : Nat} (ok : cfg.Ok) (pos : 1 ≤ k)
    (whole : cfg.c * k ≤ frameSymbols cfg n ∨ k = 1) (ends : frameSymbols cfg n < cfg.c * (k + 1)) :
    closingLap cfg n = k := by
  have below : frameSymbols cfg n / cfg.c < k + 1 := Nat.div_lt_of_lt_mul ends
  unfold closingLap
  rcases whole with whole | rfl
  · have above : k ≤ frameSymbols cfg n / cfg.c := (Nat.le_div_iff_mul_le ok.slotsPos).2 (by rwa [Nat.mul_comm])
    omega
  · omega

theorem frameSymbols_lt {cfg : Config} (ok : cfg.Ok) (n : Nat) :
    frameSymbols cfg n < (closingLap cfg n + 1) * cfg.c := by
  have below : frameSymbols cfg n < cfg.c * (frameSymbols cfg n / cfg.c + 1) :=
    Nat.lt_mul_div_succ _ ok.slotsPos
  calc frameSymbols cfg n < cfg.c * (frameSymbols cfg n / cfg.c + 1) := below
    _ ≤ (closingLap cfg n + 1) * cfg.c := by
      rw [Nat.mul_comm]
      exact Nat.mul_le_mul_right _ (Nat.succ_le_succ (Nat.le_max_right _ _))

theorem cursorAt_le {cfg : Config} (ok : cfg.Ok) (n p : Nat) : cursorAt cfg n p ≤ n := by
  rw [cursorAt_eq ok]
  split_ifs <;> omega

theorem closingBit_iff {cfg : Config} (h : cfg.closingHalf = .second) (half : Half) :
    cfg.closingBit half = true ↔ half = .second := by
  rw [Config.closingBit, h, decide_eq_true_iff]
  exact eq_comm

/-- A frame that still streams with an event pending in lap `k` has data left for this lap, or is in its first. -/
theorem State.Streams.lap_of_streaming {f : Nat → Colour} {n k : Nat} {s : State} (h : s.Streams f n)
    (hq : producedAt s = s.cfg.c * k + s.cfg.halfStart s.dueHalf) (kpos : 1 ≤ k) (streaming : s.done = false) :
    s.cfg.c * k ≤ frameSymbols s.cfg n ∨ k = 1 := by
  have ok := Config.ok_of h.config
  have start : s.cfg.halfStart s.dueHalf < s.cfg.c := by
    have := ok.halves
    have := ok.halfPos
    cases s.dueHalf <;> simp only [Config.halfStart] <;> omega
  obtain ⟨-, whole | first⟩ := h.streaming streaming
  · left
    rwa [hq, Nat.mul_add_div ok.slotsPos, Nat.div_eq_of_lt start, Nat.add_zero, Nat.mul_comm] at whole
  · right
    have : s.cfg.c * k < s.cfg.c * 2 := by omega
    have := Nat.lt_of_mul_lt_mul_left this
    omega

/-- A refill that does not close the frame leaves the data to come where the next lap finds it. -/
theorem State.Streams.open_of_refill {f : Nat → Colour} {n : Nat} {s : State} (h : s.Streams f n)
    (second : s.cfg.closingHalf = .second) (pending : s.pending = true) (streaming : s.done = false)
    (opened : ¬(s.cfg.closingBit s.dueHalf = true ∧ frameSymbols s.cfg n < producedAt s + s.cfg.h)) :
    (producedAt s + s.cfg.h) / s.cfg.c * s.cfg.c ≤ frameSymbols s.cfg n ∨ producedAt s + s.cfg.h < 2 * s.cfg.c := by
  have ok := Config.ok_of h.config
  have halves := ok.halves
  have pos := ok.halfPos
  obtain ⟨k, kpos, hq⟩ := h.due pending
  rw [closingBit_iff second] at opened
  cases due : s.dueHalf with
  | first =>
    rw [hq, due, Config.halfStart, Nat.add_zero]
    rcases h.lap_of_streaming hq kpos streaming with whole | rfl
    · left
      rwa [Nat.mul_add_div ok.slotsPos, Nat.div_eq_of_lt (by omega), Nat.add_zero, Nat.mul_comm]
    · right
      omega
  | second => exact .inl ((Nat.div_mul_le_self _ _).trans (Nat.not_lt.1 fun ends => opened ⟨due, ends⟩))

/-- A frame that streams with its full-drained event pending: the engine has `k` laps behind it and is in the next. -/
theorem State.Streams.laps_of_full {f : Nat → Colour} {n k : Nat} {s : State} (h : s.Streams f n)
    (pending : s.pending = true) (hq : producedAt s = s.cfg.c * k + s.cfg.h) (streaming : s.done = false) :
    k * s.cfg.c ≤ s.wire.length ∧ s.wire.length + s.rem = (k + 1) * s.cfg.c := by
  have ok := Config.ok_of h.config
  have halves := ok.halves
  have range := h.remRange
  obtain ⟨running, -⟩ := h.streaming streaming
  have produced := producedAt_of_pending ok pending
  have below := Nat.mul_div_le s.wire.length s.cfg.h
  have above := Nat.lt_mul_div_succ s.wire.length ok.halfPos
  rw [Nat.mul_add] at above
  obtain ⟨j, hj⟩ := Nat.dvd_of_mod_eq_zero h.lap
  have lo : s.cfg.c * k < s.cfg.c * j := by omega
  have hi : s.cfg.c * j < s.cfg.c * (k + 2) := by
    rw [Nat.mul_add]
    omega
  obtain rfl : j = k + 1 := by
    have := Nat.lt_of_mul_lt_mul_left lo
    have := Nat.lt_of_mul_lt_mul_left hi
    omega
  rw [Nat.mul_comm k, Nat.mul_comm (k + 1)]
  exact ⟨by omega, hj⟩

/-- A refill that closes the frame is the one that follows the closing lap (R104). -/
theorem State.Streams.closed_of_refill {f : Nat → Colour} {n : Nat} {s : State} (h : s.Streams f n)
    (second : s.cfg.closingHalf = .second) (pending : s.pending = true) (streaming : s.done = false)
    (bit : s.cfg.closingBit s.dueHalf = true) (ends : frameSymbols s.cfg n < producedAt s + s.cfg.h) :
    (closingLap s.cfg n + 1) * s.cfg.c ≤ producedAt s + s.cfg.h ∧ closingLap s.cfg n * s.cfg.c ≤ s.wire.length ∧
      s.wire.length + s.rem = (closingLap s.cfg n + 1) * s.cfg.c := by
  have ok := Config.ok_of h.config
  obtain ⟨k, kpos, hq⟩ := h.due pending
  have whole := h.lap_of_streaming hq kpos streaming
  rw [(closingBit_iff second _).1 bit, Config.halfStart] at hq
  have filled : producedAt s + s.cfg.h = s.cfg.c * (k + 1) := by
    have := ok.halves
    rw [hq, Nat.mul_succ]
    omega
  rw [filled] at ends ⊢
  rw [closingLap_eq ok kpos whole ends]
  exact ⟨(Nat.mul_comm _ _).le, h.laps_of_full pending hq streaming⟩

/-- The cursor is at the terminal value exactly when the frame is done (R97). -/
theorem State.Streams.terminal_iff {f : Nat → Colour} {n : Nat} {s : State} {c : Int} (h : s.Streams f n)
    (hc : s.cursor = some c) : c = n + 1 ↔ s.done = true := by
  have low := cursorAt_le (Config.ok_of h.config) n (producedAt s)
  have cursor := hc.symm.trans h.cursor
  cases hd : s.done with
  | true => simpa [hd] using cursor
  | false =>
    have : c = cursorAt s.cfg n (producedAt s) := by simpa [hd] using cursor
    simp only [Bool.false_eq_true, iff_false]
    omega

/-- A refill of the half that is due leaves the frame the logical stream, with the producer a half further (R103, R104). -/
theorem State.Streams.refilled {f : Nat → Colour} {n : Nat} {s t : State} {c : Int} (h : s.Streams f n)
    (second : s.cfg.closingHalf = .second) (pending : s.pending = true) (hc : s.cursor = some c)
    (w : Window f n (producedAt s) (s.cfg.halfStart s.dueHalf) s.cfg.h (s.cfg.closingBit s.dueHalf) c s.ackEvents t) :
    t.Streams f n := by
  have ok := Config.ok_of h.config
  have cfg : t.cfg = s.cfg := w.filled.cfg
  have wire : t.wire = s.wire := w.filled.wire
  have rem : t.rem = s.rem := w.filled.rem
  have evh : t.evh = false := w.filled.evh
  have evf : t.evf = false := w.filled.evf
  have produced : producedAt t = producedAt s + s.cfg.h := by
    rw [producedAt_of_pending ok pending, producedAt_of_served (pending_eq_false.2 ⟨evh, evf⟩), cfg, wire, ok.halves]
    ring
  have terminal := h.terminal_iff hc
  have done : t.done = true ↔ s.done = true ∨
      (s.cfg.closingBit s.dueHalf = true ∧ frameSymbols s.cfg n < producedAt s + s.cfg.h) := by
    rw [w.done]
    simp [terminal]
  exact {
    config := by rw [cfg]; exact h.config
    noFault := w.filled.fault.trans h.noFault
    armed := w.filled.irqen.trans h.armed
    ledCount := w.filled.ledCount.trans h.ledCount
    oneFlag := by simp [evh]
    wire := by rw [wire, cfg]; exact h.wire
    remRange := by rw [rem, cfg]; exact h.remRange
    lap := by rw [wire, rem, cfg]; exact h.lap
    halfParity := by simp [evh]
    fullParity := by simp [evf]
    buffer := by
      rw [cfg, produced]
      obtain ⟨k, -, hq⟩ := h.due pending
      exact fun i lo hi => w.buffer (s := s.ackEvents) ok hq h.buffer lo hi
    circ := by
      rw [w.circ, w.done]
      cases hd : s.done with
      | true => simp [h.circ, hd]
      | false =>
        simp [h.circ, hd, terminal]
        rfl
    cursor := by
      rw [produced, cfg, w.cursor]
      simp only [done, terminal, State.ackEvents_cfg]
    calls := by
      have more : ledsBefore s.cfg n (producedAt s) ≤ ledsBefore s.cfg n (producedAt s + s.cfg.h) := by
        simp only [ledsBefore]
        omega
      rw [produced, cfg, w.calls]
      simp only [State.ackEvents_calls, State.ackEvents_cfg, h.calls]
      obtain ⟨d, hd⟩ := Nat.exists_eq_add_of_le more
      rw [hd, Nat.add_sub_cancel_left, List.range_add, List.map_append, List.map_map]
      rfl
    colours := by
      rw [produced, cfg]
      exact w.colours
    streaming := by
      intro streams
      obtain ⟨before, opened⟩ := not_or.1 (mt done.2 (by simp [streams]))
      rw [Bool.not_eq_true] at before
      rw [produced, cfg, rem]
      exact ⟨(h.streaming before).1, h.open_of_refill second pending before opened⟩
    closing := by
      intro closed
      rw [produced, cfg, wire, rem]
      cases before : s.done with
      | true =>
        obtain ⟨filled, rest⟩ := h.closing before
        exact ⟨by omega, rest⟩
      | false =>
        obtain ⟨bit, ends⟩ := (done.1 closed).resolve_left (by simp [before])
        exact h.closed_of_refill second pending before bit ends }

/-- Every `SERVICE` of a pending event completes (R125 to R128). -/
theorem State.Streams.serves {f : Nat → Colour} {n : Nat} {s : State} (h : s.Streams f n)
    (second : s.cfg.closingHalf = .second) (pending : s.pending = true) (flags : EvFlags) :
    ∃ t, execService flags s = .next t ∧ t.Streams f n ∧ Filled 0 s.cfg.c s.ackEvents t := by
  have ok := Config.ok_of h.config
  have halves := ok.halves
  obtain ⟨c, hc⟩ : ∃ c, s.cursor = some c := ⟨_, h.cursor⟩
  have groups : producedAt s % 6 = 0 := by
    have := ok.halfGroups
    rw [producedAt_of_pending ok pending, ← Nat.mul_succ, Nat.mul_mod, this, Nat.zero_mul, Nat.zero_mod]
  have inside : s.cfg.halfStart s.dueHalf + s.cfg.h ≤ s.cfg.c := by
    cases s.dueHalf <;> simp only [Config.halfStart] <;> omega
  have position : c = cursorAt s.cfg n (producedAt s) ∨ (c = n + 1 ∧ frameSymbols s.cfg n ≤ producedAt s) := by
    have cursor := hc.symm.trans h.cursor
    cases hd : s.done with
    | true =>
      have := frameSymbols_lt ok n
      have := (h.closing hd).1
      exact .inr ⟨by simpa [hd] using cursor, by omega⟩
    | false => exact .inl (by simpa [hd] using cursor)
  obtain ⟨t, ht, w⟩ := fillSegment_window (f := f) (s := s.ackEvents) (s.cfg.closingBit s.dueHalf) ok groups
    ok.halfGroups ok.halfPos inside hc h.ledCount position h.colours
  refine ⟨t, ?_, h.refilled second pending hc w, w.filled.mono (Nat.zero_le _) inside⟩
  rw [execService_of_pending flags pending h.oneFlag, ht]
  rfl

/-! `START` begins a stream -/

/-- What a `START n` that passes its checks leaves: the beginning of a stream. -/
structure BeginsStream (n : Nat) (s t : State) : Prop where
  streams : t.Streams s.nextColour n
  cfg : t.cfg = s.cfg
  inited : t.inited = s.inited
  wire : t.wire = []
  served : t.pending = false
  streaming : t.done = false

/-- A `START` that passes its checks with no event pending begins the logical stream of the colours to come (R113, R103). -/
theorem execStart_streams {s : State} {n : Nat} (config : s.cfg.firstFailing = none) (noFault : s.fault = none)
    (armed : s.irqen = true) (quiet : s.pending = false) (checks : startFault n s = none) :
    ∃ t, execStart n s = .next t ∧ BeginsStream n s t := by
  have ok := Config.ok_of config
  obtain ⟨u, hu, w⟩ := execStart_window ok checks
  refine ⟨_, hu, ?_⟩
  obtain ⟨noHalf, noFull⟩ := pending_eq_false.1 quiet
  obtain ⟨t, ht⟩ : ∃ t, t = u.armCircular.setLength s.cfg.c := ⟨_, rfl⟩
  rw [← ht]
  have cfg : t.cfg = s.cfg := by rw [ht]; exact w.filled.cfg
  have wire : t.wire = [] := by rw [ht]; exact w.filled.wire
  have evh : t.evh = false := by rw [ht]; exact w.filled.evh.trans noHalf
  have evf : t.evf = false := by rw [ht]; exact w.filled.evf.trans noFull
  have served := pending_eq_false.2 ⟨evh, evf⟩
  have low : -s.cfg.r ≠ n + 1 := by
    have := ok.preNonneg
    omega
  have done : t.done = false := by
    rw [ht]
    show u.done = false
    simp [w.done, low]
  have produced : producedAt t = s.cfg.c := by
    rw [producedAt_of_served served, wire, cfg, List.length_nil, Nat.zero_div, Nat.mul_zero, Nat.add_zero]
  refine ⟨?_, cfg, by rw [ht]; exact w.filled.inited, wire, served, done⟩
  exact {
    config := by rw [cfg]; exact config
    noFault := by rw [ht]; exact w.filled.fault.trans noFault
    armed := by rw [ht]; exact w.filled.irqen.trans armed
    ledCount := by rw [ht]; exact w.filled.ledCount
    oneFlag := by simp [evh]
    wire := by rw [wire]; rfl
    remRange := by rw [cfg, ht]; exact le_rfl
    lap := by
      rw [wire, cfg, ht]
      show (0 + s.cfg.c) % s.cfg.c = 0
      simp
    halfParity := by simp [evh]
    fullParity := by simp [evf]
    buffer := by
      rw [produced, cfg]
      intro i _ hi
      rw [Nat.mod_eq_of_lt hi, ht]
      simpa using w.slots i hi
    circ := by
      rw [done, ht]
      rfl
    cursor := by
      rw [done, produced, cfg, ht]
      show u.cursor = _
      simp [w.cursor, low]
    calls := by
      rw [produced, cfg, ht]
      show u.calls = _
      simp [w.calls, ledsBefore]
    colours := by
      rw [produced, cfg, ht]
      intro k
      show u.nextColour k = _
      simpa using w.colours k
    streaming := by
      rw [produced, cfg, ht]
      exact fun _ => ⟨ok.slotsPos, .inr (by have := ok.slotsPos; omega)⟩
    closing := by simp [done] }

/-! The loop of R73 -/

/-- The body of `RUN`, repeated until `stop` holds or the body stops: an invariant that each body step keeps, with `steps`
the number of body steps taken so far and `bound` a number that they do not exceed. -/
theorem runUntil_ends {P : State → Prop} {stop : State → Bool} {steps : State → Nat} {bound : Nat}
    (body : ∀ s i, P s → stop s = false → eagerChoice s = some i →
      steps s < bound ∧ ∃ t, agentStep i s = .next t ∧ P t ∧ steps t = steps s + 1)
    (fuel : Nat) {s : State} (start : P s) (enough : bound ≤ steps s + fuel) :
    ∃ t, runUntil stop fuel s = .next t ∧ P t ∧ (stop t = true ∨ eagerChoice t = none) := by
  induction fuel generalizing s with
  | zero =>
    refine ⟨s, rfl, start, ?_⟩
    by_contra going
    rw [not_or, Bool.not_eq_true] at going
    obtain ⟨i, hi⟩ := Option.ne_none_iff_exists'.1 going.2
    have := (body s i start going.1 hi).1
    omega
  | succ fuel ih =>
    cases hs : stop s with
    | true => exact ⟨s, runUntil_stop hs _, start, .inl hs⟩
    | false =>
      cases hi : eagerChoice s with
      | none => exact ⟨s, runUntil_halt hi _, start, .inr hi⟩
      | some i =>
        obtain ⟨-, u, hu, next, count⟩ := body s i start hs hi
        rw [runUntil_step hs hi hu]
        exact ih next (by omega)

/-! A stream in its laps -/

/-- A pending event stands for a half that has been drained. -/
theorem State.Streams.drained_of_pending {f : Nat → Colour} {n : Nat} {s : State} (h : s.Streams f n)
    (pending : s.pending = true) : 1 ≤ s.wire.length / s.cfg.h := by
  cases hh : s.evh with
  | true =>
    have odd := h.halfParity hh
    generalize s.wire.length / s.cfg.h = m at odd ⊢
    omega
  | false =>
    have hf : s.evf = true := by simpa [State.pending, hh] using pending
    exact (Nat.one_le_div_iff (Config.ok_of h.config).halfPos).2 (h.fullParity hf).2

/-- While a frame streams, the producer is short of the end of its last lap. -/
theorem State.Streams.producedAt_lt {f : Nat → Colour} {n : Nat} {s : State} (h : s.Streams f n)
    (streaming : s.done = false) : producedAt s < (closingLap s.cfg n + 1) * s.cfg.c := by
  have ok := Config.ok_of h.config
  rcases (h.streaming streaming).2 with whole | first
  · have short := Nat.lt_of_mul_lt_mul_right (whole.trans_lt (frameSymbols_lt ok n))
    exact (Nat.div_lt_iff_lt_mul ok.slotsPos).1 short
  · have laps : 2 ≤ closingLap s.cfg n + 1 := Nat.succ_le_succ (Nat.le_max_left _ _)
    exact first.trans_le (Nat.mul_le_mul_right _ laps)

/-- No stream goes past its last lap, and one whose engine runs is short of its end. -/
theorem State.Streams.length_le {f : Nat → Colour} {n : Nat} {s : State} (h : s.Streams f n) :
    s.wire.length ≤ (closingLap s.cfg n + 1) * s.cfg.c ∧
      (0 < s.rem → s.wire.length < (closingLap s.cfg n + 1) * s.cfg.c) := by
  cases hd : s.done with
  | true =>
    have := (h.closing hd).2.2
    omega
  | false =>
    have := h.producedAt_lt hd
    have := (producedAt_bounds (Config.ok_of h.config)).1
    omega

/-- Whole laps are twice as many halves. -/
theorem halves_le {cfg : Config} (ok : cfg.Ok) {L k : Nat} (h : L ≤ k * cfg.c) : L / cfg.h ≤ 2 * k := by
  rw [ok.halves] at h
  calc L / cfg.h ≤ k * (2 * cfg.h) / cfg.h := Nat.div_le_div_right h
    _ = 2 * k := by rw [show k * (2 * cfg.h) = 2 * k * cfg.h by ring, Nat.mul_div_cancel _ ok.halfPos]

/-! The eager schedule in a stream -/

/-- A frame under the eager schedule: the logical stream, each event served at the slot that fired it. -/
structure State.Eager (cfg : Config) (f : Nat → Colour) (n : Nat) (s : State) : Prop where
  config : s.cfg = cfg
  streams : s.Streams f n
  inited : s.inited = true
  prompt : s.pending = true → s.cfg.h ∣ s.wire.length

/-- Steps of the eager schedule since `START`: one `DRAIN` for each symbol, one `SERVICE` for each event served. -/
def State.eagerSteps (s : State) : Nat :=
  s.wire.length + s.wire.length / s.cfg.h - if s.pending then 1 else 0

/-- The body's choice in a stream (R73). -/
theorem State.Streams.eagerChoice_eq {f : Nat → Colour} {n : Nat} {s : State} (h : s.Streams f n) :
    eagerChoice s = if s.pending then some (.service s.evFlags) else if s.rem = 0 then none else some .drain := by
  simp [eagerChoice, h.armed, State.idle]

theorem execDrain_completes {s : State} (running : 0 < s.rem) (hh : 0 < s.cfg.c - s.cfg.h) :
    ∃ t, execDrain s = .next t := by
  rcases execDrain_cases running hh with
    ⟨v, -, ⟨-, -, e⟩ | ⟨-, -, e⟩ | ⟨-, -, e⟩ | ⟨-, -, e⟩ | ⟨-, -, e⟩⟩ | ⟨-, e⟩ <;> exact ⟨_, e⟩

/-- A `DRAIN` with every event served: the premise of R9 holds, so it raises nothing. -/
theorem State.Streams.drain_served {f : Nat → Colour} {n : Nat} {s : State} (h : s.Streams f n)
    (served : s.pending = false) (running : 0 < s.rem) :
    ∃ t, agentStep .drain s = .next t ∧ DrainsStream f n s t := by
  have ok := Config.ok_of h.config
  have hh : 0 < s.cfg.c - s.cfg.h := by
    have := ok.halves
    have := ok.halfPos
    omega
  obtain ⟨t, ht⟩ := execDrain_completes running hh
  have noFault : t.fault = none :=
    (execDrain_fault_eq_none_iff running hh h.noFault (h.drained_slot running) ht).2 fun _ => served
  have enabled : enabled .drain s = true := by
    simp [enabled, h.noFault, State.idle, Nat.pos_iff_ne_zero.1 running]
  exact ⟨t, (agentStep_eq h.noFault enabled).trans ht, h.drains running ht noFault⟩

/-- An event fires where a half has been drained. -/
theorem DrainsStream.prompt {f : Nat → Colour} {n : Nat} {s t : State} (h : DrainsStream f n s t)
    (served : s.pending = false) (fired : t.pending = true) : s.cfg.h ∣ t.wire.length := by
  rcases h.fires with ⟨same, -⟩ | ⟨-, -, next⟩
  · simp [same, served] at fired
  · by_contra inside
    rw [h.length] at next inside
    rw [Nat.succ_div, if_neg inside] at next
    omega

/-- A `DRAIN` is one step, whether it fires an event or not: an event that fires is counted when it is served. -/
theorem DrainsStream.eagerSteps {f : Nat → Colour} {n : Nat} {s t : State} (h : DrainsStream f n s t)
    (served : s.pending = false) : t.eagerSteps = s.eagerSteps + 1 := by
  have cfg : t.cfg = s.cfg := by rw [h.frame]
  have length := h.length
  have fires := h.fires
  simp only [State.eagerSteps, cfg, served]
  generalize t.wire.length / s.cfg.h = m' at fires ⊢
  generalize s.wire.length / s.cfg.h = m at fires ⊢
  rcases fires with ⟨same, halves⟩ | ⟨-, fired, next⟩
  · simp only [same, served, Bool.false_eq_true, if_false]
    omega
  · simp only [fired, Bool.false_eq_true, if_false, if_true]
    omega

/-- The `DRAIN` of a running engine, with every event served. -/
theorem State.Eager.drain {cfg : Config} {f : Nat → Colour} {n : Nat} {s : State} (h : s.Eager cfg f n)
    (served : s.pending = false) (running : 0 < s.rem) :
    ∃ t, agentStep .drain s = .next t ∧ t.Eager cfg f n ∧ t.eagerSteps = s.eagerSteps + 1 ∧ t.done = s.done := by
  obtain ⟨t, ht, drains⟩ := h.streams.drain_served served running
  have same : t.cfg = s.cfg ∧ t.inited = s.inited ∧ t.done = s.done := by
    rw [drains.frame]
    exact ⟨rfl, rfl, rfl⟩
  obtain ⟨cfg, inited, done⟩ := same
  refine ⟨t, ht, ⟨cfg.trans h.config, drains.streams, inited.trans h.inited, ?_⟩, drains.eagerSteps served, done⟩
  rw [cfg]
  exact drains.prompt served

/-- The `SERVICE` of the pending event. -/
theorem State.Eager.service {cfg : Config} {f : Nat → Colour} {n : Nat} {s : State} (h : s.Eager cfg f n)
    (second : cfg.closingHalf = .second) (pending : s.pending = true) :
    ∃ t, agentStep (.service s.evFlags) s = .next t ∧ t.Eager cfg f n ∧ t.eagerSteps = s.eagerSteps + 1 ∧
      t.pending = false ∧ t.wire = s.wire := by
  have stream := h.streams
  obtain ⟨t, ht, stream', filled⟩ := stream.serves (by rw [h.config]; exact second) pending s.evFlags
  have cfg : t.cfg = s.cfg := filled.cfg
  have wire : t.wire = s.wire := filled.wire
  have served : t.pending = false := pending_eq_false.2 ⟨filled.evh, filled.evf⟩
  have enabled : enabled (.service s.evFlags) s = true := by
    simp [enabled, State.serviceEnabled, stream.noFault, stream.armed, pending]
  refine ⟨t, (agentStep_eq stream.noFault enabled).trans ht, ⟨cfg.trans h.config, stream', ?_, ?_⟩, ?_, served, wire⟩
  · exact filled.inited.trans h.inited
  · simp [served]
  · have := stream.drained_of_pending pending
    simp only [State.eagerSteps, cfg, wire, served, pending, Bool.false_eq_true, if_false, if_true]
    omega

/-- One body of `RUN`: the `SERVICE` of a pending event, else a `DRAIN`, which leaves the flag `DONE` alone. -/
theorem State.Eager.body {cfg : Config} {f : Nat → Colour} {n : Nat} {s : State} {i : Instr} (h : s.Eager cfg f n)
    (second : cfg.closingHalf = .second) (choice : eagerChoice s = some i) :
    ∃ t, agentStep i s = .next t ∧ t.Eager cfg f n ∧ t.eagerSteps = s.eagerSteps + 1 ∧
      ((s.pending = true ∧ t.pending = false ∧ t.wire = s.wire) ∨ t.done = s.done) := by
  rw [h.streams.eagerChoice_eq] at choice
  split_ifs at choice with pending halted
  · cases choice
    obtain ⟨t, ht, next, count, served, wire⟩ := h.service second pending
    exact ⟨t, ht, next, count, .inl ⟨pending, served, wire⟩⟩
  · cases choice
    obtain ⟨t, ht, next, count, done⟩ := h.drain (by simpa using pending) (Nat.pos_of_ne_zero halted)
    exact ⟨t, ht, next, count, .inr done⟩

/-- The steps of a frame that is not over: R200's `DRAIN`s and R166's `SERVICE`s bound them. -/
theorem State.Eager.steps_lt {cfg : Config} {f : Nat → Colour} {n : Nat} {s : State} (h : s.Eager cfg f n)
    (going : eagerChoice s ≠ none) : s.eagerSteps < (closingLap cfg n + 1) * (cfg.c + 2) := by
  have stream := h.streams
  have ok := Config.ok_of stream.config
  obtain ⟨whole, short⟩ := stream.length_le
  have halves := halves_le ok whole
  rw [stream.eagerChoice_eq] at going
  rw [← h.config, Nat.mul_add, State.eagerSteps]
  split_ifs at going ⊢ with pending halted
  · omega
  · exact absurd rfl going
  · have := short (Nat.pos_of_ne_zero halted)
    omega

/-- While a frame streams, the engine is in its closing lap at most, or has just drained that lap (R104). -/
theorem State.Streams.halves_lt {f : Nat → Colour} {n : Nat} {s : State} (h : s.Streams f n) (streaming : s.done = false) :
    s.wire.length / s.cfg.h < 2 * closingLap s.cfg n + if s.pending then 1 else 0 := by
  have ok := Config.ok_of h.config
  have halves := ok.halves
  have short := h.producedAt_lt streaming
  have laps : (closingLap s.cfg n + 1) * s.cfg.c = s.cfg.h * (2 * closingLap s.cfg n) + s.cfg.c := by
    rw [halves]
    ring
  rw [laps] at short
  apply Nat.lt_of_mul_lt_mul_left (a := s.cfg.h)
  cases pending : s.pending with
  | true =>
    rw [producedAt_of_pending ok pending] at short
    rw [if_pos rfl, Nat.mul_add]
    omega
  | false =>
    rw [producedAt_of_served pending] at short
    simp only [Bool.false_eq_true, if_false, Nat.add_zero]
    omega

/-- While the frame streams, the steps stay short of the closing event's (R104). -/
theorem State.Eager.streaming_steps_lt {cfg : Config} {f : Nat → Colour} {n : Nat} {s : State} (h : s.Eager cfg f n)
    (streaming : s.done = false) :
    s.wire.length ≤ closingLap cfg n * cfg.c ∧ s.eagerSteps < closingLap cfg n * (cfg.c + 2) := by
  have ok := Config.ok_of h.streams.config
  have short := h.streams.halves_lt streaming
  have laps : closingLap s.cfg n * s.cfg.c = s.cfg.h * (2 * closingLap s.cfg n) := by
    rw [ok.halves]
    ring
  rw [← h.config, Nat.mul_add, State.eagerSteps, laps]
  cases pending : s.pending with
  | true =>
    obtain ⟨j, hj⟩ := h.prompt pending
    have drained := h.streams.drained_of_pending pending
    rw [pending, hj, Nat.mul_div_cancel_left _ ok.halfPos, if_pos rfl] at short
    rw [hj, Nat.mul_div_cancel_left _ ok.halfPos] at drained ⊢
    have := Nat.mul_le_mul_left s.cfg.h (Nat.le_of_lt_succ short)
    rw [if_pos rfl]
    omega
  | false =>
    have above := Nat.lt_mul_div_succ s.wire.length ok.halfPos
    simp only [pending, Bool.false_eq_true, if_false, Nat.add_zero] at short ⊢
    have := Nat.mul_le_mul_left s.cfg.h (Nat.succ_le_of_lt short)
    rw [Nat.mul_succ] at this
    rw [Nat.mul_add] at above
    omega

/-! The start and the end of a frame -/

/-- A host that no event preempts may start a frame (R172). -/
theorem enabled_start {s : State} (noFault : s.fault = none) (quiet : s.pending = false) (n : Int) :
    enabled (.start n) s = true := by
  simp [enabled, issuedBy, State.serviceEnabled, noFault, quiet]

/-- A `START n` of a run that passes its checks begins a frame of the eager schedule. -/
theorem State.RunInv.starts {s : State} {n : Nat} (inv : s.RunInv) (width : 1 ≤ s.cfg.cw) (inited : s.inited = true)
    (done : s.done = true) (halted : s.rem = 0) (served : s.pending = false) (range : (n : Int) ≤ 2 ^ (s.cfg.cw - 1) - 2) :
    ∃ u, agentStep (.start n) s = .next u ∧ u.Eager s.cfg s.nextColour n ∧ u.eagerSteps = 0 ∧ u.done = false := by
  have armed : s.irqen = true := inv.wf.armedOnce.symm.trans inited
  have checks : startFault n s = none :=
    startFault_none.2 ⟨inited, done, halted, (ledCountOk_iff width n).2 ⟨by omega, range⟩⟩
  obtain ⟨u, hu, begins⟩ := execStart_streams inv.config inv.noFault armed served checks
  refine ⟨u, (agentStep_eq inv.noFault (enabled_start inv.noFault served n)).trans hu, ?_, ?_, begins.streaming⟩
  · exact ⟨begins.cfg, begins.streams, begins.inited.trans inited, by simp [begins.served]⟩
  · simp [State.eagerSteps, begins.wire]

/-- Where the eager schedule stops, the frame is over (R15). -/
theorem State.Streams.ended {f : Nat → Colour} {n : Nat} {s : State} (h : s.Streams f n) (stops : eagerChoice s = none) :
    s.frameOver := by
  rw [h.eagerChoice_eq] at stops
  split_ifs at stops with pending halted
  obtain ⟨noHalf, noFull⟩ := pending_eq_false.1 (by simpa using pending)
  refine ⟨halted, noHalf, noFull, ?_, h.noFault⟩
  by_contra streaming
  have := (h.streaming (by simpa using streaming)).1
  omega

/-- When the frame is over, the whole stream has been sent and every colour pulled (R189, R200). -/
theorem State.Streams.sent {f : Nat → Colour} {n : Nat} {s : State} (h : s.Streams f n) (ended : s.frameOver) :
    s.wire = (List.range ((closingLap s.cfg n + 1) * s.cfg.c)).map (streamSymbol s.cfg f n) ∧
    s.calls = (List.range n).map Int.ofNat := by
  obtain ⟨halted, -, -, done, -⟩ := ended
  obtain ⟨filled, -, total⟩ := h.closing done
  rw [halted, Nat.add_zero] at total
  have all : ledsBefore s.cfg n (producedAt s) = n := by
    have := frameSymbols_lt (Config.ok_of h.config) n
    simp only [ledsBefore, frameSymbols] at *
    omega
  refine ⟨?_, by rw [h.calls, all]⟩
  rw [← total]
  exact h.wire

/-- The eager schedule from the start of a frame, whatever it waits for: it stops there, or where the frame is over. -/
theorem State.Eager.runs {cfg : Config} {f : Nat → Colour} {n : Nat} {s : State} (h : s.Eager cfg f n)
    (second : cfg.closingHalf = .second) (begun : s.eagerSteps = 0) (stop : State → Bool) :
    ∃ t, runUntil stop ((closingLap cfg n + 1) * (cfg.c + 2)) s = .next t ∧ t.Eager cfg f n ∧
      (stop t = true ∨ eagerChoice t = none) := by
  refine runUntil_ends (steps := State.eagerSteps) (bound := (closingLap cfg n + 1) * (cfg.c + 2))
    (fun v i hv _ choice => ?_) _ h (by omega)
  obtain ⟨w, hw, next, count, -⟩ := hv.body second choice
  exact ⟨hv.steps_lt (by simp [choice]), w, hw, next, count⟩

/-! The two waits -/

theorem status_done (s : State) : s.status.getLsbD 0 = s.done := by
  unfold State.status
  cases s.idle <;> cases s.done <;> rfl

/-- `0b11` is the status of a frame that is over, `0b01` of one in its last lap (R115). -/
theorem status_of_over {s : State} (halted : s.rem = 0) (done : s.done = true) : s.status = 0b11 := by
  simp [State.status, State.idle, halted, done]

theorem status_of_last_lap {s : State} (running : 0 < s.rem) (done : s.done = true) : s.status = 0b01 := by
  simp [State.status, State.idle, Nat.pos_iff_ne_zero.1 running, done]

theorem over_of_status {s : State} (h : s.status = 0b11) : s.rem = 0 ∧ s.done = true := by
  unfold State.status State.idle at h
  by_cases halted : s.rem = 0 <;> cases done : s.done <;> simp [halted, done] at h ⊢

/-- A `POLL` of a stream finds a status only with every event served (R172). -/
theorem State.Streams.pollFinds_iff {f : Nat → Colour} {n : Nat} {s : State} (h : s.Streams f n) (want : Status → Bool) :
    pollFinds want s = true ↔ s.pending = false ∧ want s.status = true := by
  simp [pollFinds, enabled, issuedBy, State.serviceEnabled, h.noFault, h.armed]

/-- The `POLL` that ends a wait (R115, log 18). -/
theorem waitFor_of_found {want : Status → Bool} {fuel : Nat} {s t : State}
    (loop : runUntil (pollFinds want) fuel s = .next t) (noFault : t.fault = none) (found : pollFinds want t = true) :
    waitFor want fuel s = .next (t.setResult (.status t.status)) := by
  have enabled : enabled .poll t = true := by
    simp only [pollFinds, Bool.and_eq_true] at found
    exact found.1
  simp only [waitFor, loop, found, if_true]
  exact agentStep_eq noFault enabled

/-- Where `WAITDONE` has not ended: the frame streams, or the event that closed it has just been served (R104). -/
structure State.BeforeClosing (cfg : Config) (f : Nat → Colour) (n : Nat) (s : State) : Prop where
  eager : s.Eager cfg f n
  quiet : s.done = true → s.pending = false
  length : s.done = true → s.wire.length = closingLap cfg n * cfg.c

/-- The body of `RUN` while the frame streams: the `SERVICE` that closes it finds the whole closing lap sent. -/
theorem State.Eager.body_before_closing {cfg : Config} {f : Nat → Colour} {n : Nat} {s : State} {i : Instr}
    (h : s.Eager cfg f n) (second : cfg.closingHalf = .second) (streaming : s.done = false)
    (choice : eagerChoice s = some i) :
    ∃ t, agentStep i s = .next t ∧ t.BeforeClosing cfg f n ∧ t.eagerSteps = s.eagerSteps + 1 := by
  obtain ⟨t, ht, next, count, ⟨-, served, wire⟩ | same⟩ := h.body second choice
  · refine ⟨t, ht, ⟨next, fun _ => served, fun closed => ?_⟩, count⟩
    obtain ⟨-, reached, -⟩ := next.streams.closing closed
    have short := (h.streaming_steps_lt streaming).1
    rw [next.config, wire] at reached
    rw [wire]
    omega
  · have streams : t.done = false := same.trans streaming
    exact ⟨t, ht, ⟨next, by simp [streams], by simp [streams]⟩, count⟩

/-- Before the closing event is served, the body of `RUN` goes on where no `POLL` finds the flag. -/
theorem State.BeforeClosing.streaming {cfg : Config} {f : Nat → Colour} {n : Nat} {s : State}
    (h : s.BeforeClosing cfg f n) (going : pollFinds (fun v => v.getLsbD 0) s = false) : s.done = false := by
  cases closed : s.done with
  | false => rfl
  | true =>
    have found := (h.eager.streams.pollFinds_iff fun v => v.getLsbD 0).2
      ⟨h.quiet closed, (status_done s).trans closed⟩
    exact absurd found (Bool.eq_false_iff.1 going)

/-- `WAITDONE` from the start of a frame runs into the event that closes it. -/
theorem State.Eager.runs_to_closing {cfg : Config} {f : Nat → Colour} {n : Nat} {s : State} (h : s.Eager cfg f n)
    (second : cfg.closingHalf = .second) (begun : s.eagerSteps = 0) (streaming : s.done = false) :
    ∃ t, runUntil (pollFinds fun v => v.getLsbD 0) (closingLap cfg n * (cfg.c + 2)) s = .next t ∧
      t.BeforeClosing cfg f n ∧ t.done = true := by
  have start : s.BeforeClosing cfg f n := ⟨h, by simp [streaming], by simp [streaming]⟩
  obtain ⟨t, ht, before, ends⟩ := runUntil_ends (stop := pollFinds fun v => v.getLsbD 0) (steps := State.eagerSteps)
    (bound := closingLap cfg n * (cfg.c + 2))
    (fun v i hv going choice =>
      have streams := hv.streaming going
      ⟨(hv.eager.streaming_steps_lt streams).2, hv.eager.body_before_closing second streams choice⟩)
    (closingLap cfg n * (cfg.c + 2)) start (by omega)
  refine ⟨t, ht, before, ?_⟩
  rcases ends with found | stops
  · rw [← status_done]
    exact ((before.eager.streams.pollFinds_iff _).1 found).2
  · obtain ⟨-, -, -, done, -⟩ := before.eager.streams.ended stops
    exact done

end Sys2Proof.Machine

/-! The obligations of spec/30_encoding.md: the pseudo-operations -/

section
open Sys2Proof Sys2Proof.Machine

/-- Settles O51: the eager schedule keeps the stream, and its steps are bounded by what the frame has to send. -/
theorem everyFrameRunsToItsEnd : Obligations.EveryFrameRunsToItsEnd := by
  intro s n inv second width inited done halted served range
  obtain ⟨u, hu, eager, begun, -⟩ := inv.starts width inited done halted served range
  obtain ⟨t, ht, eager', ends⟩ := eager.runs second begun fun _ => false
  have stops : eagerChoice t = none := by simpa using ends
  have ended := eager'.streams.ended stops
  obtain ⟨wire, calls⟩ := eager'.streams.sent ended
  rw [eager'.config] at wire
  refine ⟨t, ?_, stops, ended, wire, calls⟩
  simp only [runFrame, hu]
  exact ht

/-- Settles O52: while the frame streams the steps are short of the closing event's, and the event that closes it is served
where it fires. -/
theorem waitDoneEndsAtTheClosingEvent : Obligations.WaitDoneEndsAtTheClosingEvent := by
  intro s n inv second width inited done halted served range
  obtain ⟨u, hu, eager, begun, streaming⟩ := inv.starts width inited done halted served range
  obtain ⟨t, ht, ⟨eager', quiet, length⟩, closed⟩ := eager.runs_to_closing second begun streaming
  have stream := eager'.streams
  have found := (stream.pollFinds_iff fun v => v.getLsbD 0).2 ⟨quiet closed, (status_done t).trans closed⟩
  have length := length closed
  have rem : t.rem = s.cfg.c := by
    obtain ⟨-, -, total⟩ := stream.closing closed
    rw [eager'.config, length, Nat.succ_mul] at total
    omega
  have running : 0 < t.rem := by
    rw [rem]
    exact (Config.ok_of inv.config).slotsPos
  refine ⟨u, _, hu, waitFor_of_found ht stream.noFault found, stream.noFault, length, rem, ?_, ?_⟩
  · simp [stream.circ, closed]
  · rw [status_of_last_lap running closed]
    rfl

/-- Settles O53: the wait ends where the frame is over, and there `START` passes its checks. -/
theorem waitIdleEndsWithTheFrameOver : Obligations.WaitIdleEndsWithTheFrameOver := by
  intro s n inv second width inited done halted served range
  obtain ⟨u, hu, eager, begun, -⟩ := inv.starts width inited done halted served range
  obtain ⟨t, ht, eager', ends⟩ := eager.runs second begun (pollFinds fun v => v == 0b11)
  have stream := eager'.streams
  have ended : t.frameOver := by
    rcases ends with found | stops
    · obtain ⟨quiet, status⟩ := (stream.pollFinds_iff _).1 found
      obtain ⟨noHalf, noFull⟩ := pending_eq_false.1 quiet
      obtain ⟨halted, done⟩ := over_of_status (by simpa using status)
      exact ⟨halted, noHalf, noFull, done, stream.noFault⟩
    · exact stream.ended stops
  obtain ⟨halted', noHalf, noFull, done', noFault⟩ := ended
  have quiet := pending_eq_false.2 ⟨noHalf, noFull⟩
  have status := status_of_over halted' done'
  have found := (stream.pollFinds_iff fun v => v == 0b11).2 ⟨quiet, by simp [status]⟩
  refine ⟨u, _, hu, waitFor_of_found ht noFault found, ⟨halted', noHalf, noFull, done', noFault⟩, ?_, ?_, fun m => ?_⟩
  · rw [status]
    rfl
  · refine startFault_none.2 ⟨eager'.inited, done', halted', ?_⟩
    show t.cfg.ledCountOk n = true
    rw [eager'.config]
    exact (ledCountOk_iff width n).2 ⟨by omega, range⟩
  · exact enabled_start (s := t.setResult (.status t.status)) noFault quiet m

end

/-! The Symbol Encoder (spec/40_symbol_encoder.md R80 to R84) -/

section
namespace Sys2Proof

/-- Nibble `k` in numbers: R64's shift and mask as a quotient and a remainder. -/
theorem Colour.toNat_nibble (c : Colour) (k : Nat) : (c.nibble k).toNat = c.toNat / 2 ^ (20 - 4 * k) % 16 := by
  have low : ∀ x : Colour, ((x &&& 0xF).setWidth 4 : Nibble) = x.setWidth 4 := fun x => by
    ext i hi
    interval_cases i <;> simp
  rw [Colour.nibble, low, BitVec.toNat_setWidth, BitVec.toNat_ushiftRight, Nat.shiftRight_eq_div_pow]

/-- A colour is its six nibbles and nothing else (R63). -/
theorem Colour.eq_of_nibble_eq {c d : Colour} (h : ∀ k < 6, c.nibble k = d.nibble k) : c = d := by
  have digit : ∀ k < 6, c.toNat / 2 ^ (20 - 4 * k) % 16 = d.toNat / 2 ^ (20 - 4 * k) % 16 := fun k hk => by
    rw [← toNat_nibble, ← toNat_nibble, h k hk]
  have d0 := digit 0 (by decide)
  have d1 := digit 1 (by decide)
  have d2 := digit 2 (by decide)
  have d3 := digit 3 (by decide)
  have d4 := digit 4 (by decide)
  have d5 := digit 5 (by decide)
  have hc := c.isLt
  have hd := d.isLt
  apply BitVec.eq_of_toNat_eq
  norm_num at d0 d1 d2 d3 d4 d5
  omega

/-- The codes of R70 for `ENC`: the nibble stands in the low four bits. -/
theorem code_of_enc (n : Nibble) : (0x40 ||| n.setWidth 8 : Byte) = BitVec.ofNat 8 (0x40 + n.toNat) := by
  revert n; decide

namespace Machine

/-- No symbol stands twice in the table (CFG4), so it tells its nibble. -/
theorem encodeNibble_injective {cfg : Config} (ok : cfg.Ok) : Function.Injective (encodeNibble cfg) := by
  intro n m h
  have inTable : n.toNat < cfg.sym.length := by rw [ok.tableLength]; exact n.isLt
  refine BitVec.eq_of_toNat_eq ((List.getElem?_inj inTable ok.tableNodup).1 ?_)
  rw [encodeNibble_getElem ok.tableLength, encodeNibble_getElem ok.tableLength, h]

theorem encodeColour_injective {cfg : Config} (ok : cfg.Ok) : Function.Injective (encodeColour cfg) := by
  intro c d h
  refine Colour.eq_of_nibble_eq fun k hk => encodeNibble_injective ok (Option.some.inj ?_)
  rw [← encodeColour_getElem cfg c hk, ← encodeColour_getElem cfg d hk, h]

theorem exec_enc (n : Nibble) (s : State) :
    exec (.enc n) s = .next (s.setResult (.symbol (encodeNibble s.cfg n))) := rfl

theorem exec_enc24 (c : Colour) (s : State) :
    exec (.enc24 c) s = .next (s.setResult (.sextet (encodeColour s.cfg c))) := rfl

theorem exec_zsym (s : State) : exec .zsym s = .next (s.setResult (.symbol zeroSymbol)) := rfl

/-- Equal ends of two operations that only return a value come from equal values. -/
theorem result_eq_of_next_eq {s : State} {x y : OpResult}
    (h : (.next (s.setResult x) : Host.Outcome State Fault Refusal) = .next (s.setResult y)) : x = y :=
  Option.some.inj (congrArg State.result (Host.Outcome.next.inj h))

end Machine
end Sys2Proof
end

/-! The obligations of spec/40_symbol_encoder.md -/

section
open Sys2Proof Sys2Proof.Machine

/-- Settles O11: no symbol stands twice in the table, and a colour is its six nibbles. -/
theorem encoderIsInjective : Obligations.EncoderIsInjective := by
  constructor
  · intro s n m config h
    rw [exec_enc, exec_enc] at h
    exact encodeNibble_injective (Config.ok_of config) (OpResult.symbol.inj (result_eq_of_next_eq h))
  · intro s c d config h
    rw [exec_enc24, exec_enc24] at h
    exact encodeColour_injective (Config.ok_of config) (OpResult.sextet.inj (result_eq_of_next_eq h))

/-- Settles O12: symbol `k` is the table entry of nibble `k`, which is that quotient and remainder. -/
theorem enc24EncodesSixNibbles : Obligations.Enc24EncodesSixNibbles := by
  intro s c length
  refine ⟨rfl, encodeColour s.cfg c, exec_enc24 c s, encodeColour_length s.cfg c, fun k hk => ?_⟩
  rw [encodeColour_getElem s.cfg c hk, ← Colour.toNat_nibble, encodeNibble_getElem length]

/-- Settles O10: the table of 16 entries has one for every nibble. -/
theorem encReturnsTheTableEntry : Obligations.EncReturnsTheTableEntry := by
  intro s n length
  exact ⟨congrArg some (code_of_enc n), encodeNibble s.cfg n, encodeNibble_getElem length n, exec_enc n s⟩

/-- Settles O14: `ZSYM` returns the zero symbol without a look at the table. -/
theorem zsymReturnsZero : Obligations.ZsymReturnsZero :=
  fun s => ⟨rfl, exec_zsym s⟩

end

/-! The Buffer-Segment Filler: one `FILL` of a unit step in closed form, with its faults, and the frame of a scheduled
run as the logical stream (spec/41_segment_filler.md R90 to R104) -/

section
namespace Sys2Proof.Machine

/-! How a `FILL` ends -/

/-- The first fault reached is the one recorded (R34). -/
theorem State.raise_of_noFault {s : State} (noFault : s.fault = none) (f : Fault) :
    s.raise f = { s with fault := some f } := by
  simp [State.raise, noFault]

theorem exec_fill_of_go {start count : Nat} {closing : Bool} {s t : State}
    (h : fillSegment start count closing s = .go t) : exec (.fill start count closing) s = .next t :=
  congrArg Flow.finish h

theorem exec_fill_of_raised {start count : Nat} {closing : Bool} {s t : State} {f : Fault}
    (h : fillSegment start count closing s = .raised f t) : exec (.fill start count closing) s = .next (t.raise f) :=
  congrArg Flow.finish h

/-! The two `require`s of R102 -/

theorem fillSegment_outside {start count : Nat} (closing : Bool) {s : State} (hout : s.cfg.c < start + count) :
    fillSegment start count closing s = .raised (.badOperand (.fill start count closing)) s := by
  have : ¬ s.cfg.segmentInside start count = true := by simpa [Config.segmentInside] using hout
  rw [fillSegment, if_neg this]

theorem fillSegment_without_ledCount {start count : Nat} (closing : Bool) {c : Int} {s : State}
    (hin : start + count ≤ s.cfg.c) (hc : s.cursor = some c) (hn : s.ledCount = none) :
    fillSegment start count closing s = .raised (.uninitialised .ledCount) s := by
  simp [fillSegment, Config.segmentInside, hin, hc, hn]

/-! The data phases, counted in groups -/

theorem cursorAfterData_eq_add (c n : Int) (count : Nat) :
    cursorAfterData c n count = c + (min (preambleSlots c) count / 2 : Nat) + (ledsWritten c n count : Nat) := by
  rw [cursorAfterData, Nat.cast_add, Int.add_assoc]

/-- The colour source is called once per LED, with the cursor that the pairs have left as the first index (R94). -/
theorem afterData_calls_from_pairs (start count : Nat) (c n : Int) (s : State) :
    (afterData start count c n s).calls = s.calls ++ (List.range (ledsWritten c n count)).map
      (fun j : Nat => c + (min (preambleSlots c) count / 2 : Nat) + (j : Int)) := rfl

/-- Data phases that write no slot leave the state. -/
theorem afterData_of_no_slots {start count : Nat} {c n : Int} {s : State} (hc : s.cursor = some c)
    (h : dataSlots c n count = 0) : afterData start count c n s = s := by
  have pairs : min (preambleSlots c) count / 2 = 0 := by simp only [dataSlots] at h; omega
  have leds : ledsWritten c n count = 0 := by simp only [dataSlots] at h; omega
  simp only [afterData, pairs, leds, afterPreamble_zero hc, Nat.cast_zero, Int.add_zero, afterLeds_zero hc]

/-- The group that does not fit begins inside the segment, with fewer slots left than it needs (R100). -/
theorem overrun_inside {c n : Int} {count : Nat} (hg : ¬ groupsFit c n count) :
    dataSlots c n count < count ∧ count - dataSlots c n count < if count < preambleSlots c then 2 else 6 := by
  simp only [groupsFit, dataSlots, ledsWritten] at hg ⊢
  have even : preambleSlots c % 2 = 0 := by simp [preambleSlots]
  have sextets : ledSlots c n % 6 = 0 := by simp [ledSlots]
  split_ifs <;> omega

/-! A call whose groups fit -/

/-- Phase 3 calls the colour source for nothing (R95). -/
theorem fillPadding_source (n : Int) (fin : Nat) (closing : Bool) (p : Nat) (c : Int) (s : State) :
    (fillPadding n fin closing p c s).calls = s.calls ∧ (fillPadding n fin closing p c s).answers = s.answers ∧
      (fillPadding n fin closing p c s).draws = s.draws := by
  unfold fillPadding detectCompletion closeFrame
  split_ifs <;> exact ⟨rfl, rfl, rfl⟩

/-- What a call whose groups fit takes from the colour source: its LEDs' colours (R94). -/
theorem fillSegment_source {start count : Nat} {closing : Bool} {c n : Int} {s t : State} (hin : start + count ≤ s.cfg.c)
    (hc : s.cursor = some c) (hn : s.ledCount = some n) (hg : groupsFit c n count)
    (h : fillSegment start count closing s = .go t) :
    t.calls = (afterData start count c n s).calls ∧ t.answers = s.answers.drop (ledsWritten c n count) ∧
      t.draws = s.draws + ledsWritten c n count := by
  rw [fillSegment_eq closing hin hc hn, if_pos hg] at h
  cases h
  exact fillPadding_source _ _ _ _ _ _

/-- A call that enters with all the data written pads every slot of its segment (R95 to R97). -/
theorem fillSegment_pads {start count : Nat} (closing : Bool) {c n : Int} {s : State} (hin : start + count ≤ s.cfg.c)
    (hc : s.cursor = some c) (hn : s.ledCount = some n) (hpos : 0 < count) (h0 : 0 ≤ c) (hle : n ≤ c) :
    fillSegment start count closing s = .go
      { s with
        buf := Memory.writeList s.buf start (List.replicate count zeroSymbol)
        cursor := some (if closing = true ∧ c = n then n + 1 else c)
        circ := s.circ && !(closing && decide (c = n))
        done := s.done || decide ((closing = true ∧ c = n) ∨ c = n + 1) } := by
  have preamble : preambleSlots c = 0 := by simp only [preambleSlots]; omega
  have leds : ledSlots c n = 0 := by simp only [ledSlots]; omega
  have noData : dataSlots c n count = 0 := by simp [dataSlots, ledsWritten, preamble, leds]
  have cursor : cursorAfterData c n count = c := by simp [cursorAfterData, ledsWritten, preamble, leds]
  have fits : groupsFit c n count := .inr (.inr (by omega))
  rw [fillSegment_eq closing hin hc hn, if_pos fits, noData, cursor, afterData_of_no_slots hc noData,
    fillPadding_entered closing hc (by omega) hle]
  simp

/-- A call of no slots leaves the state (R91). -/
theorem fillSegment_of_no_slots {start : Nat} (closing : Bool) {c n : Int} {s : State} (hin : start ≤ s.cfg.c)
    (hc : s.cursor = some c) (hn : s.ledCount = some n) : fillSegment start 0 closing s = .go s := by
  have noData : dataSlots c n 0 = 0 := Nat.le_zero.1 (dataSlots_le c n 0)
  have fits : groupsFit c n 0 := .inl ⟨Nat.zero_le _, rfl⟩
  rw [fillSegment_eq closing hin hc hn, if_pos fits, noData, fillPadding_skipped closing rfl,
    afterData_of_no_slots hc noData]

/-! The host in a stream -/

/-- A stream does not speak of `LEN`, `INITED` and the value returned last. -/
theorem State.Streams.unread_fields {f : Nat → Colour} {n : Nat} {s : State} (h : s.Streams f n) (len : Nat)
    (inited : Bool) (result : Option OpResult) :
    State.Streams f n { s with len := len, inited := inited, result := result } where
  config := h.config
  noFault := h.noFault
  armed := h.armed
  ledCount := h.ledCount
  oneFlag := h.oneFlag
  wire := h.wire
  remRange := h.remRange
  lap := h.lap
  halfParity := h.halfParity
  fullParity := h.fullParity
  buffer := h.buffer
  circ := h.circ
  cursor := h.cursor
  calls := h.calls
  colours := h.colours
  streaming := h.streaming
  closing := h.closing

/-- An `INIT` that raises no fault finds the frame over, and writes nothing a stream speaks of (R110). -/
theorem State.Streams.inits {f : Nat → Colour} {n : Nat} {s t : State} (h : s.Streams f n) (served : s.pending = false)
    (step : execInit s = .next t) (noFault : t.fault = none) : t.Streams f n := by
  rcases execInit_cases step with ⟨done, halted, rfl⟩ | rfl
  · obtain ⟨noHalf, noFull⟩ := pending_eq_false.1 served
    have same : (s.ackEvents.setLength 0).setUp = { s with len := 0, inited := true, result := s.result } := by
      simp [State.ackEvents, State.setLength, State.setUp, noHalf, noFull, halted, h.armed, done]
    rw [same]
    exact h.unread_fields 0 true s.result
  · simp at noFault

/-- Every enabled step but `START` that raises no fault keeps the stream (R103, R104). -/
theorem State.Streams.exec_streams {f : Nat → Colour} {n : Nat} {s t : State} {i : Instr} (h : s.Streams f n)
    (second : s.cfg.closingHalf = .second) (noStart : ∀ m, i ≠ .start m) (he : enabled i s = true)
    (step : exec i s = .next t) (noFault : t.fault = none) : t.Streams f n := by
  rcases (enabled_cases he).2 with ⟨rfl, running⟩ | ⟨rfl, -, pending⟩ | ⟨rfl | ⟨m, rfl⟩ | rfl, free⟩
  · exact (h.drains running step noFault).streams
  · obtain ⟨u, hu, streams, -⟩ := h.serves second pending s.evFlags
    cases step.symm.trans hu
    exact streams
  · exact h.inits (free.resolve_left (by simp [h.armed])) step noFault
  · exact absurd rfl (noStart m)
  · cases step
    exact h.unread_fields s.len s.inited (some (.status s.status))

/-- A `START` of a run that raises no fault has passed its checks, with interrupts armed and no event pending (R112, R172). -/
theorem State.RunInv.start_accepted {s t : State} {n : Int} (inv : s.RunInv) (he : enabled (.start n) s = true)
    (step : exec (.start n) s = .next t) (noFault : t.fault = none) :
    startFault n s = none ∧ s.irqen = true ∧ s.pending = false := by
  have checks : startFault n s = none := by
    rcases execStart_cases step with ⟨f, -, rfl⟩ | ⟨checks, -⟩
    · simp at noFault
    · exact checks
  have armed : s.irqen = true := inv.wf.armedOnce.symm.trans (startFault_none.1 checks).1
  have free : s.irqen = false ∨ s.pending = false := by simpa using (enabled_cases he).2
  exact ⟨checks, armed, free.resolve_left (by simp [armed])⟩

end Sys2Proof.Machine
end

/-! The obligations of spec/41_segment_filler.md -/

section
open Sys2Proof Sys2Proof.Machine

/-- Settles O49: the engine streams the next symbol, the handler writes the next half, and the host's other steps write
nothing the stream speaks of. -/
theorem everyScheduleKeepsTheStream : Obligations.EveryScheduleKeepsTheStream := by
  intro s t f n i stream second noStart hstep noFault
  obtain ⟨-, he, hexec⟩ := agentStep_cases hstep
  exact stream.exec_streams second noStart he hexec noFault

/-- Settles O48: a `START` that raises nothing has passed its checks, and its `FILL` writes the first lap of the stream. -/
theorem startBeginsTheStream : Obligations.StartBeginsTheStream := by
  intro s t n inv _ hstep noFault
  obtain ⟨-, he, hexec⟩ := agentStep_cases hstep
  obtain ⟨checks, armed, quiet⟩ := inv.start_accepted he hexec noFault
  obtain ⟨u, hu, begins⟩ := execStart_streams inv.config inv.noFault armed quiet checks
  cases hexec.symm.trans hu
  exact begins.streams

/-- Settles O17: the closed form of a call whose groups fit. -/
theorem fillWritesItsSegment : Obligations.FillWritesItsSegment := by
  intro s start count closing c n hin hc hn hg
  obtain ⟨t, ht, fits⟩ := fillSegment_fits closing hin hc hn hg
  exact ⟨t, exec_fill_of_go ht, fits.slots, fits.filled.outside, fits.filled.frame⟩

/-- Settles O18: the cursor counts the groups written, and phase 3 is entered exactly when slots are left after the data. -/
theorem fillAdvancesTheCursor : Obligations.FillAdvancesTheCursor := by
  intro s t start count closing c n hin hc hn hg hexec pairs leds reached padded closes
  obtain ⟨u, hu, fits⟩ := fillSegment_fits closing hin hc hn hg
  cases hexec.symm.trans (exec_fill_of_go hu)
  obtain ⟨calls, answers, draws⟩ := fillSegment_source hin hc hn hg hu
  have after : cursorAfterData c n count = reached := cursorAfterData_eq_add c n count
  refine ⟨?_, ?_, ?_, calls, answers, draws⟩
  · rw [fits.cursor, after]
  · rw [fits.circ, after]
    by_cases h : closes
    · rw [if_pos h, decide_eq_true h, Bool.not_true, Bool.and_false]
    · rw [if_neg h, decide_eq_false h, Bool.not_false, Bool.and_true]
  · have ends : padded ∧ ((closing = true ∧ reached = n) ∨ reached = n + 1) ↔ closes ∨ (padded ∧ reached = n + 1) :=
      and_or_left
    rw [fits.done, after]
    by_cases h : closes ∨ (padded ∧ reached = n + 1)
    · rw [if_pos h, decide_eq_true (ends.2 h), Bool.or_true]
    · rw [if_neg h, decide_eq_false (mt ends.1 h), Bool.or_false]

/-- Settles O19: entered at `LEDCOUNT` or past it, a call is phase 3 alone. -/
theorem closingFillDisarmsAndCompletes : Obligations.ClosingFillDisarmsAndCompletes := by
  intro s start count closing n h0 hpos hin hn
  refine ⟨fun hc => ?_, fun hc => ?_, fun hc => ?_⟩
  · rw [exec_fill_of_go (fillSegment_pads true hin hc hn hpos h0 le_rfl)]
    simp
  · rw [exec_fill_of_go (fillSegment_pads false hin hc hn hpos h0 le_rfl)]
    simp [hc]
  · rw [exec_fill_of_go (fillSegment_pads closing hin hc hn hpos (by omega) (by omega))]
    simp [hc]

/-- Settles O20: the overrun's closed form: what the data phases have written up to the group that does not fit. -/
theorem fillOverrunsAtTheGroupThatDoesNotFit : Obligations.FillOverrunsAtTheGroupThatDoesNotFit := by
  intro s start count closing c n noFault hin hc hn hg pairs leds p need
  obtain ⟨before, short⟩ := overrun_inside hg
  have at_p : p = start + dataSlots c n count := Nat.add_assoc _ _ _
  rw [at_p]
  refine ⟨_, exec_fill_of_raised (fillSegment_overruns closing hin hc hn hg), ?_, by omega, by omega, ?_,
    afterData_calls_from_pairs start count c n s, fun j hj => afterData_read (by omega), fun j hj => afterData_outside hj,
    ?_⟩
  · show s.fault.or _ = _
    rw [noFault]
    rfl
  · exact (afterData_cursor start count c n s).trans (congrArg some (cursorAfterData_eq_add c n count))
  · rfl

/-- Settles O21: the frame of every call, with the fault it may record. -/
theorem fillWritesOnlyItsState : Obligations.FillWritesOnlyItsState := by
  intro s t start count closing hexec
  have filled := fillSegment_filled start count closing s
  obtain ⟨f, rfl⟩ := Flow.finish_cases (x := fillSegment start count closing s) hexec
  refine ⟨?_, filled.outside, fun done => ?_, fun armed => ?_, filled.calls⟩
  · rw [filled.frame]
  · exact filled.done.elim (fun same => same.trans done) id
  · exact filled.circ.elim (fun same => same.symm.trans armed) fun cleared => by simp [cleared] at armed

/-- Settles O15: the first `require` comes before everything else, and a call of no slots starts no group. -/
theorem fillChecksItsSegment : Obligations.FillChecksItsSegment := by
  constructor
  · intro s start count closing noFault hout
    rw [exec_fill_of_raised (fillSegment_outside closing hout), State.raise_of_noFault noFault]
  · intro s start closing c n hin hc hn
    exact exec_fill_of_go (fillSegment_of_no_slots closing hin hc hn)

/-- Settles O16: the second `require` looks at the cursor first. -/
theorem fillWithoutValuesFaults : Obligations.FillWithoutValuesFaults := by
  intro s start count closing noFault hin
  constructor
  · intro hc
    rw [exec_fill_of_raised (fillSegment_without_cursor closing hin hc), State.raise_of_noFault noFault]
  · intro c hc hn
    rw [exec_fill_of_raised (fillSegment_without_ledCount closing hin hc hn), State.raise_of_noFault noFault]

end

/-! The Transfer Controller: `INIT` on either side of its precondition, `START` by its checks
(spec/42_transfer_controller.md R110 to R113) -/

section
namespace Sys2Proof.Machine

/-! `INIT` (R110, R111) -/

theorem exec_init_of_ready {s : State} (done : s.done = true) (halted : s.rem = 0) :
    exec .init s = .next ((s.ackEvents.setLength 0).setUp) :=
  if_pos ⟨done, halted⟩

theorem exec_init_of_busy {s : State} (busy : s.done = false ∨ 0 < s.rem) :
    exec .init s = .next (s.raise .initWhileBusy) := by
  refine if_neg fun ⟨done, halted⟩ => ?_
  rcases busy with streaming | running
  · simp [streaming] at done
  · omega

/-! `START` (R112, R113) -/

/-- A `FILL` that goes on has written only what a `FILL` writes: neither the configuration nor `FAULT` is of it (R102). -/
theorem filled_of_go {start count : Nat} {closing : Bool} {s t : State} (h : fillSegment start count closing s = .go t) :
    Filled start (start + count) s t := by
  have filled := fillSegment_filled start count closing s
  rwa [h] at filled

/-- A check that fails is the whole step. -/
theorem exec_start_of_check_failed {n : Int} {s : State} {f : Fault} (noFault : s.fault = none)
    (failed : startFault n s = some f) : exec (.start n) s = .next { s with fault := some f } := by
  rw [← State.raise_of_noFault noFault]
  show execStart n s = _
  rw [execStart, failed]

/-- A `START` that passes its checks is its writes, its `FILL`, and then `ARM` and `SETLEN(C)`. -/
theorem exec_start_of_checks {n : Int} {s : State} (checks : startFault n s = none) :
    exec (.start n) s = ((fillSegment 0 s.cfg.c false (s.beginFrame n)).andThen
      fun t => .go (t.armCircular.setLength t.cfg.c)).finish := by
  show execStart n s = _
  rw [execStart, checks]

theorem exec_start_of_raised {n : Int} {s u : State} {f : Fault} (checks : startFault n s = none)
    (fill : fillSegment 0 s.cfg.c false (s.beginFrame n) = .raised f u) : exec (.start n) s = .next (u.raise f) := by
  rw [exec_start_of_checks checks, fill]
  rfl

theorem exec_start_of_go {n : Int} {s u : State} (checks : startFault n s = none)
    (fill : fillSegment 0 s.cfg.c false (s.beginFrame n) = .go u) :
    exec (.start n) s = .next { u with circ := true, len := s.cfg.c, rem := s.cfg.c } := by
  have sameConfig : s.cfg = u.cfg := (filled_of_go fill).cfg.symm
  rw [exec_start_of_checks checks, fill, sameConfig]
  rfl

end Sys2Proof.Machine
end

/-! The obligations of spec/42_transfer_controller.md -/

section
open Sys2Proof Sys2Proof.Machine

/-- Settles O24: each check is the one that fails once those before it pass. -/
theorem startChecksItsPreconditions : Obligations.StartChecksItsPreconditions := by
  intro s n noFault width
  refine ⟨fun notInited => exec_start_of_check_failed noFault ?_,
    fun inited streaming => exec_start_of_check_failed noFault ?_,
    fun inited done running => exec_start_of_check_failed noFault ?_,
    fun inited done halted range => exec_start_of_check_failed noFault ?_⟩
  · simp [startFault, notInited]
  · simp [startFault, inited, streaming]
  · simp [startFault, inited, done, running.ne']
  · have bad : s.cfg.ledCountOk n = false := by
      rw [← Bool.not_eq_true, ledCountOk_iff width]
      omega
    simp [startFault, inited, done, halted, bad]

/-- Settles O25: the step goes the way of its `FILL`, which of itself records no fault and keeps the configuration. -/
theorem startFillsArmsAndSetsTheLength : Obligations.StartFillsArmsAndSetsTheLength := by
  intro s u n noFault width inited done halted h0 hle hfill
  have checks : startFault n s = none := startFault_none.2 ⟨inited, done, halted, (ledCountOk_iff width n).2 ⟨h0, hle⟩⟩
  refine ⟨rfl, ?_⟩
  cases fill : fillSegment 0 s.cfg.c false (s.beginFrame n) with
  | go t =>
    have clean : t.fault = none := (filled_of_go fill).fault.trans noFault
    cases hfill.symm.trans (exec_fill_of_go fill)
    exact ⟨fun _ => exec_start_of_go checks fill, fun faulted => absurd clean faulted⟩
  | raised f t =>
    cases hfill.symm.trans (exec_fill_of_raised fill)
    exact ⟨fun clean => by simp at clean, fun _ => exec_start_of_raised checks fill⟩

/-- Settles O22: the two sides of R111's precondition. -/
theorem initSetsUpOrFaults : Obligations.InitSetsUpOrFaults := by
  refine fun s => ⟨rfl, exec_init_of_ready, fun noFault busy => ?_⟩
  rw [exec_init_of_busy busy, State.raise_of_noFault noFault]

/-- Settles O23: an `INIT` that ran leaves a block that is ready for `INIT`, with every write already made. -/
theorem initIsIdempotent : Obligations.InitIsIdempotent := by
  intro s t _ hinit noFault
  rcases execInit_cases hinit with ⟨-, -, rfl⟩ | rfl
  · exact exec_init_of_ready rfl rfl
  · simp at noFault

/-- Settles O27: `POLL` hands over the status word. -/
theorem pollReturnsTheStatus : Obligations.PollReturnsTheStatus :=
  fun s => ⟨rfl, s.status, status_toNat s, rfl⟩

end

/-! The Completion Handler: `SERVICE` as the refills of the halves whose events it found, and beside a `DRAIN` that
fires no event (spec/43_completion_handler.md R125 to R135, spec/20_memory.md R49) -/

section
namespace Sys2Proof

/-- The codes of R70 for `SERVICE`: the flags stand in the low two bits. -/
theorem code_of_service (f : EvFlags) : (0x20 ||| f.setWidth 8 : Byte) = BitVec.ofNat 8 (0x20 + f.toNat) := by
  revert f; decide

/-- A slot of one half of the buffer (R21). -/
abbrev Config.InHalf (cfg : Config) (half : Half) (j : Nat) : Prop :=
  cfg.halfStart half ≤ j ∧ j < cfg.halfStart half + cfg.h

theorem Config.inHalf_first {cfg : Config} {j : Nat} : cfg.InHalf .first j ↔ j < cfg.h := by
  simp [Config.InHalf, Config.halfStart]

theorem Config.Ok.inHalf_second {cfg : Config} (ok : cfg.Ok) {j : Nat} :
    cfg.InHalf .second j ↔ cfg.h ≤ j ∧ j < cfg.c := by
  rw [ok.halves, Nat.two_mul]; rfl

theorem Config.Ok.half_inside {cfg : Config} (ok : cfg.Ok) (half : Half) : cfg.halfStart half + cfg.h ≤ cfg.c := by
  have := ok.halves
  cases half <;> simp only [Config.halfStart] <;> omega

theorem Config.Ok.second_half_pos {cfg : Config} (ok : cfg.Ok) : 0 < cfg.c - cfg.h := by
  have := ok.halves
  have := ok.halfPos
  omega

namespace Machine

/-! The two refills (R127 to R129) -/

theorem exec_service (flags : EvFlags) (s : State) : exec (.service flags) s =
    ((refillHalf .first s.evh s.ackEvents).andThen (refillHalf .second s.evf)).finish :=
  execService_eq flags s

theorem Flow.andThen_go (x : Flow) : x.andThen .go = x := by cases x <;> rfl

theorem ackEvents_of_served {s : State} (noHalf : s.evh = false) (noFull : s.evf = false) : s.ackEvents = s := by
  cases s; simp_all [State.ackEvents]

theorem refillHalf_not_found (half : Half) : refillHalf half false = .go := rfl

theorem refillHalf_first {s : State} (second : s.cfg.closingHalf = .second) :
    refillHalf .first true s = fillSegment 0 s.cfg.h false s := by
  simp [refillHalf, Config.halfStart, Config.closingBit, second]

theorem refillHalf_second {s : State} (second : s.cfg.closingHalf = .second) :
    refillHalf .second true s = fillSegment s.cfg.h s.cfg.h true s := by
  simp [refillHalf, Config.halfStart, Config.closingBit, second]

/-! What a refill leaves in each slot -/

theorem Refilled.holds_inside {half : Half} {found : Bool} {n c c' : Int} {s t : State}
    (h : Refilled half found n c c' s t) (due : found = true) {j : Nat} (inside : s.cfg.InHalf half j) :
    ∃ v, Memory.read t.buf j = some v := by
  obtain ⟨k, rfl⟩ := Nat.exists_eq_add_of_le inside.1
  exact h.slots due k (by omega)

theorem Refilled.read_outside {half : Half} {found : Bool} {n c c' : Int} {s t : State}
    (h : Refilled half found n c c' s t) {j : Nat} (outside : ¬ (found = true ∧ s.cfg.InHalf half j)) :
    Memory.read t.buf j = Memory.read s.buf j := by
  cases found with
  | false => rw [h.untouched rfl]
  | true => exact h.filled.outside j (by simp only [true_and] at outside; omega)

/-! The handler beside the engine (R49, R135) -/

/-- A `DRAIN` that fires no event shifts one symbol out and counts down (R146). -/
theorem exec_drain_of_quiet {s : State} {v : Symbol} (running : 0 < s.rem) (hh : 0 < s.cfg.c - s.cfg.h)
    (quiet : ¬ s.drainFires) (hv : Memory.read s.buf (s.cfg.c - s.rem) = some v) :
    exec .drain s = .next ((s.emit v).setRem (s.rem - 1)) := by
  unfold State.drainFires at quiet
  rcases execDrain_cases running hh with
    ⟨u, hu, ⟨-, -, e⟩ | ⟨atHalf, -, -⟩ | ⟨atFull, -, -⟩ | ⟨atHalf, -, -⟩ | ⟨atFull, -, -⟩⟩ | ⟨hnone, -⟩
  case inl.inl =>
    cases hv.symm.trans hu
    exact e
  case inr => simp [hnone] at hv
  all_goals omega

/-- Phase 3 neither reads nor writes what such a `DRAIN` writes. -/
theorem fillPadding_emit_setRem {n c : Int} {s : State} (hc : s.cursor = some c) (fin : Nat) (closing : Bool) (p : Nat)
    (v : Symbol) (r : Nat) :
    fillPadding n fin closing p c ((s.emit v).setRem r) = ((fillPadding n fin closing p c s).emit v).setRem r := by
  by_cases pads : p ≠ fin ∧ n ≤ c
  · obtain ⟨left, done⟩ := pads
    rw [fillPadding_entered closing hc left done, fillPadding_entered (s := (s.emit v).setRem r) closing hc left done]
    rfl
  · simp only [fillPadding, if_neg pads]

/-- Nor does any other phase of a `FILL` whose groups fit. -/
theorem fillSegment_emit_setRem {start count : Nat} {closing : Bool} {c n : Int} {s t : State}
    (hin : start + count ≤ s.cfg.c) (hc : s.cursor = some c) (hn : s.ledCount = some n) (hg : groupsFit c n count)
    (h : fillSegment start count closing s = .go t) (v : Symbol) (r : Nat) :
    fillSegment start count closing ((s.emit v).setRem r) = .go ((t.emit v).setRem r) := by
  rw [fillSegment_eq closing hin hc hn, if_pos hg] at h
  rw [fillSegment_eq (s := (s.emit v).setRem r) closing hin hc hn, if_pos hg, ← Flow.go.inj h,
    ← fillPadding_emit_setRem (afterData_cursor _ _ _ _ _)]
  rfl

/-- The engine's next slot is not in the half that the handler refills (R49). -/
theorem State.Started.drained_slot_not_due {s : State} {c n : Int} (h : s.Started c n) (ok : s.cfg.Ok)
    (pending : s.pending = true) (running : 0 < s.rem) : ¬ s.cfg.InHalf s.dueHalf (s.cfg.c - s.rem) := by
  have halves := ok.halves
  unfold State.dueHalf
  split_ifs with half
  · have := (h.halfBehind half).2
    rw [Config.inHalf_first]
    omega
  · have full : s.evf = true := by simpa [State.pending, half] using pending
    have := (h.fullBehind full).resolve_left running.ne'
    rw [ok.inHalf_second]
    omega

/-- With one event pending the handler is one `FILL` of whole groups, the same one after the `DRAIN`. -/
theorem State.Started.service_emit_setRem {s : State} {c n : Int} (h : s.Started c n) (ok : s.cfg.Ok)
    (pending : s.pending = true) (oneFlag : ¬(s.evh = true ∧ s.evf = true)) (flags : EvFlags) (v : Symbol) (r : Nat) :
    ∃ t, exec (.service flags) s = .next t ∧
      exec (.service flags) ((s.emit v).setRem r) = .next ((t.emit v).setRem r) ∧
      Filled (s.cfg.halfStart s.dueHalf) (s.cfg.halfStart s.dueHalf + s.cfg.h) s.ackEvents t := by
  have hin := ok.half_inside s.dueHalf
  have fits : groupsFit c n s.cfg.h := groupsFit_aligned n ok.halfGroups h.cursorAligned
  obtain ⟨t, ht, refilled⟩ := fillSegment_fits (s := s.ackEvents) (s.cfg.closingBit s.dueHalf) hin h.cursor h.ledCount fits
  have late := fillSegment_emit_setRem (s := s.ackEvents) hin h.cursor h.ledCount fits ht v r
  refine ⟨t, ?_, ?_, refilled.filled⟩
  · exact (execService_of_pending flags pending oneFlag).trans (congrArg Flow.finish ht)
  · exact (execService_of_pending (s := (s.emit v).setRem r) flags pending oneFlag).trans (congrArg Flow.finish late)

end Machine
end Sys2Proof
end

/-! The obligations of spec/43_completion_handler.md -/

section
open Sys2Proof Sys2Proof.Machine

/-- Settles O28: the refill of a half whose event was found is the `FILL` of R66's row, and its fault ends the step. -/
theorem serviceAcknowledgesThenRefills : Obligations.ServiceAcknowledgesThenRefills := by
  intro s f second noFault acked
  have first : refillHalf .first true s.ackEvents = fillSegment 0 s.cfg.h false acked := refillHalf_first second
  refine ⟨congrArg some (code_of_service f), fun noHalf noFull => ?_, fun half noFull => ?_, fun noHalf full => ?_,
    fun half full u hfill => ?_⟩
  · rw [exec_service, noHalf, noFull, ackEvents_of_served noHalf noFull]
    rfl
  · rw [exec_service, half, noFull, first, refillHalf_not_found, Flow.andThen_go]
    rfl
  · rw [exec_service, noHalf, full]
    exact congrArg Flow.finish (refillHalf_second (s := acked) second)
  · rw [exec_service, half, full, first]
    cases fill : fillSegment 0 s.cfg.h false acked with
    | go t =>
      have filled := filled_of_go fill
      have clean : t.fault = none := filled.fault.trans noFault
      have sameConfig : s.cfg = t.cfg := filled.cfg.symm
      cases hfill.symm.trans (exec_fill_of_go fill)
      refine ⟨fun _ => ?_, fun faulted => absurd clean faulted⟩
      rw [sameConfig] at second ⊢
      exact congrArg Flow.finish (refillHalf_second second)
    | raised g t =>
      cases hfill.symm.trans (exec_fill_of_raised fill)
      exact ⟨fun clean => by simp at clean, fun _ => rfl⟩

/-- Settles O29: both refills are of whole groups, so neither overruns, and each writes its own half. -/
theorem serviceCompletes : Obligations.ServiceCompletes := by
  intro s f c n config noFault hc hn aligned
  have ok := Config.ok_of config
  obtain ⟨u, t, c1, c2, -, -, body, first, second⟩ := serviceBody_completes ok hc hn aligned
  have filled := serviceBody_filled s
  rw [body] at filled
  have inSecond : ∀ j, u.cfg.InHalf .second j ↔ s.cfg.h ≤ j ∧ j < s.cfg.c := fun j => by
    rw [first.filled.cfg]
    exact ok.inHalf_second
  have completes : exec (.service f) s = .next t := (execService_eq f s).trans (congrArg Flow.finish body)
  refine ⟨t, completes, filled.fault.trans noFault, filled.evh, filled.evf, fun j => ?_, fun j outside => ?_, filled.frame⟩
  · rintro (⟨half, inside⟩ | ⟨full, inside⟩)
    · rw [second.read_outside fun h => by rw [inSecond] at h; omega]
      exact first.holds_inside half (Config.inHalf_first.2 inside)
    · exact second.holds_inside full ((inSecond j).2 inside)
  · rw [second.read_outside fun ⟨full, inside⟩ => outside (.inr ⟨full, (inSecond j).1 inside⟩)]
    exact first.read_outside fun ⟨half, inside⟩ => outside (.inl ⟨half, Config.inHalf_first.1 inside⟩)

/-- Settles O47: the handler is one `FILL` of the half behind the engine, which reads and writes nothing of the
engine's; the engine reads a slot of the other half. -/
theorem serviceAndDrainCommute : Obligations.ServiceAndDrainCommute := by
  intro s f inv pending running quiet
  have ok := Config.ok_of inv.config
  have hh := ok.second_half_pos
  obtain ⟨c, n, started⟩ := inv.started_of_running running
  obtain ⟨v, hv⟩ := inv.drained_slot_holds running
  obtain ⟨a, serviced, servicedLate, filled⟩ :=
    started.service_emit_setRem ok pending inv.wf.oneFlag f v (s.rem - 1)
  have notDue := started.drained_slot_not_due ok pending running
  have sameConfig : a.cfg = s.cfg := filled.cfg
  have sameRem : a.rem = s.rem := filled.rem
  have sameSlot : Memory.read a.buf (s.cfg.c - s.rem) = some v := by
    rw [filled.outside _ (by omega)]
    exact hv
  refine ⟨a, _, _, serviced, ?_, exec_drain_of_quiet running hh quiet hv, servicedLate⟩
  have drained := exec_drain_of_quiet (s := a) (v := v)
  simp only [State.drainFires, sameConfig, sameRem] at drained
  exact drained running hh quiet sameSlot
end

/-! The engine and the colour source: `DRAIN` by the slot it consumes, the symbols on the line, the enabled steps of each
agent (spec/44_engine_and_colour_source.md R140 to R154, spec/60_exceptions.md R165, R172) -/

section
namespace Sys2Proof

/-! The line (R151) -/

/-- Blocks of one length `w`, one after the other: place `k` is in block `k / w`. -/
theorem getElem?_flatMap_of_length {α β : Type} {f : α → List β} {w : Nat} (pos : 0 < w) (len : ∀ a, (f a).length = w)
    (xs : List α) (k : Nat) : (xs.flatMap f)[k]? = xs[k / w]?.bind fun a => (f a)[k % w]? := by
  induction xs generalizing k with
  | nil => simp
  | cons x xs ih =>
    rw [List.flatMap_cons]
    rcases lt_or_ge k w with first | later
    · rw [List.getElem?_append_left (by rwa [len]), Nat.div_eq_of_lt first, Nat.mod_eq_of_lt first]
      rfl
    · rw [List.getElem?_append_right (by rwa [len]), len, ih, Nat.div_eq_sub_div pos later, Nat.mod_eq_sub_mod later]
      rfl

@[simp] theorem symbolLevels_length (w : Nat) (v : Symbol) : (symbolLevels w v).length = w := by
  simp [symbolLevels]

theorem symbolLevels_getElem? {w j : Nat} (h : j < w) (v : Symbol) :
    (symbolLevels w v)[j]? = some (v.testBit (w - 1 - j)) := by
  simp [symbolLevels, h]

/-- Symbols of width 0 take no clock. -/
theorem Machine.State.lineLevels_of_no_width {s : Machine.State} (h : s.cfg.w = 0) : s.lineLevels = [] := by
  simp [Machine.State.lineLevels, symbolLevels, h]

theorem Config.h_lt_c {cfg : Config} (slots : 0 < cfg.c) : cfg.h < cfg.c := Nat.div_lt_self slots Nat.one_lt_two

namespace Machine

/-! `DRAIN` by the slot it consumes (R146 to R150); the slot that fires no event is `exec_drain_of_quiet`. -/

/-- With `REM` in range the second half is not empty: the half-drained event is not at the end of the lap. -/
theorem second_half_pos_of_running {s : State} (running : 0 < s.rem) (inRange : s.rem ≤ s.cfg.c) :
    0 < s.cfg.c - s.cfg.h :=
  Nat.sub_pos_of_lt (Config.h_lt_c (running.trans_le inRange))

theorem exec_drain_of_halted {s : State} (halted : s.rem = 0) : exec .drain s = .refused (.notEnabled .drain) :=
  if_pos halted

/-- After slot `H - 1` the half-drained event is due (R147). -/
theorem exec_drain_at_half {s : State} {v : Symbol} (running : 0 < s.rem) (hh : 0 < s.cfg.c - s.cfg.h)
    (atHalf : s.rem - 1 = s.cfg.c - s.cfg.h) (hv : Memory.read s.buf (s.cfg.c - s.rem) = some v) :
    exec .drain s = .next (if s.pending then ((s.emit v).setRem (s.rem - 1)).raise (.underrun .half s.evFlags)
      else ((s.emit v).setRem (s.rem - 1)).setEvent .half) := by
  rcases execDrain_cases running hh with
    ⟨u, hu, ⟨notHalf, -⟩ | ⟨-, served, e⟩ | ⟨last, -⟩ | ⟨-, pending, e⟩ | ⟨last, -⟩⟩ | ⟨hnone, -⟩
  case inl.inr.inl =>
    cases hv.symm.trans hu
    rwa [served]
  case inl.inr.inr.inr.inl =>
    cases hv.symm.trans hu
    rwa [pending]
  case inr => simp [hnone] at hv
  all_goals omega

/-- After slot `C - 1` the full-drained event is due, and the lap ends (R148). -/
theorem exec_drain_at_full {s : State} {v : Symbol} (hh : 0 < s.cfg.c - s.cfg.h) (last : s.rem = 1)
    (hv : Memory.read s.buf (s.cfg.c - s.rem) = some v) :
    exec .drain s = .next (if s.pending then ((s.emit v).setRem 0).raise (.underrun .full s.evFlags)
      else lapEnd (((s.emit v).setRem 0).setEvent .full)) := by
  rcases execDrain_cases (s := s) (by omega) hh with
    ⟨u, hu, ⟨-, notLast, -⟩ | ⟨atHalf, -⟩ | ⟨-, served, e⟩ | ⟨atHalf, -⟩ | ⟨-, pending, e⟩⟩ | ⟨hnone, -⟩
  case inl.inr.inr.inl =>
    cases hv.symm.trans hu
    rwa [served]
  case inl.inr.inr.inr.inr =>
    cases hv.symm.trans hu
    rwa [pending]
  case inr => simp [hnone] at hv
  all_goals omega

/-- The end of a lap writes `REM` only, by `CIRC` (R148). -/
theorem lapEnd_eq_setRem (s : State) : lapEnd s = s.setRem (if s.circ then s.cfg.c else s.rem) := by
  unfold lapEnd
  split <;> rfl

@[simp] theorem lapEnd_wire (s : State) : (lapEnd s).wire = s.wire := by
  rw [lapEnd_eq_setRem]
  rfl

/-- Whichever slot it is, its symbol is shifted out before anything else can happen (R146). -/
theorem exec_drain_emits {s : State} {v : Symbol} (running : 0 < s.rem) (hh : 0 < s.cfg.c - s.cfg.h)
    (hv : Memory.read s.buf (s.cfg.c - s.rem) = some v) : ∃ t, exec .drain s = .next t ∧ t.wire = s.wire ++ [v] := by
  by_cases atHalf : s.rem - 1 = s.cfg.c - s.cfg.h
  · refine ⟨_, exec_drain_at_half running hh atHalf hv, ?_⟩
    split <;> rfl
  · by_cases last : s.rem = 1
    · refine ⟨_, exec_drain_at_full hh last hv, ?_⟩
      split
      · rfl
      · exact lapEnd_wire _
    · have quiet : ¬ s.drainFires := by
        unfold State.drainFires
        omega
      exact ⟨_, exec_drain_of_quiet running hh quiet hv, rfl⟩

/-! `SETLEN` and `GETCOLOR` (R144, R152) -/

theorem exec_setlen_of_legal {n : Nat} {s : State} (legal : n = 0 ∨ n = s.cfg.c) :
    exec (.setlen n) s = if s.rem = 0 then .next (s.setLength n) else .refused .setlenRunning :=
  if_pos legal

theorem exec_setlen_of_illegal {n : Nat} {s : State} (illegal : ¬(n = 0 ∨ n = s.cfg.c)) :
    exec (.setlen n) s = .next (s.raise (.badOperand (.setlen n))) :=
  if_neg illegal

theorem exec_getcolor (i : Int) (s : State) :
    exec (.getcolor i) s = .next ((s.logCall i).setResult (.colour (s.nextColour 0))) := rfl

/-- The next colour is bits 23:0 of the next answer listed (R154). -/
theorem nextColour_zero_of_answers {s : State} {a : Nat} {as : List Nat} (h : s.answers = a :: as) :
    s.nextColour 0 = BitVec.ofNat 24 a := by
  simp [State.nextColour, h, Colour.ofAnswer]

/-! The enabled steps of each agent (R145, R165, R172, R12) -/

theorem serviceEnabled_iff {s : State} :
    s.serviceEnabled = true ↔ s.fault = none ∧ s.irqen = true ∧ s.pending = true := by
  simp [State.serviceEnabled]

theorem enabled_drain_iff {s : State} : enabled .drain s = true ↔ 0 < s.rem ∧ s.fault = none := by
  simp [enabled, State.idle, Nat.pos_iff_ne_zero, and_comm]

theorem enabled_service_iff {f : EvFlags} {s : State} :
    enabled (.service f) s = true ↔ s.serviceEnabled = true ∧ f = s.evFlags := by
  simp only [enabled, Bool.and_eq_true, beq_iff_eq, Option.isNone_iff_eq_none, serviceEnabled_iff]
  tauto

/-- The host steps exactly when the handler may not (R172). -/
theorem enabled_host_iff {i : Instr} (h : issuedBy i = .host) {s : State} :
    enabled i s = true ↔ s.fault = none ∧ (s.irqen = false ∨ s.pending = false) := by
  have host : enabled i s = (s.fault.isNone && !s.serviceEnabled) := by
    cases i with
    | init | start | poll => rfl
    | _ => cases h
  rw [host, Bool.and_eq_true, Option.isNone_iff_eq_none, Bool.not_eq_true', ← Bool.not_eq_true, serviceEnabled_iff]
  simp only [← Bool.not_eq_true]
  tauto

theorem enabled_of_inside {i : Instr} (h : issuedBy i = .inside) (s : State) : enabled i s = false := by
  cases i with
  | init | start | poll | service | drain => cases h
  | _ => exact Bool.and_false _

/-- A scheduled operation that is not enabled is not fetched (log 6). -/
theorem fetch_of_disabled {s : State} {i : Instr} {rest : List Byte} (hb : s.bench = [])
    (h : decode s.cfg s.trace = .ok (i, rest)) (he : enabled i s = false) : fetch s = .error (.notEnabled i) := by
  simp [fetch, hb, fetchScheduled, h, he]

theorem step_of_fetch_error {s : State} {r : Refusal} (hc : s.cfg.firstFailing = none) (hf : s.fault = none)
    (h : fetch s = .error r) : step s = .refused r := by
  simp [step, hc, hf, h]

end Machine
end Sys2Proof
end

/-! The obligations of spec/44_engine_and_colour_source.md -/

section
open Sys2Proof Sys2Proof.Machine

/-- Settles O32: the slot read is the only way a `DRAIN` can stop before it emits. -/
theorem drainStreamsOneSlot : Obligations.DrainStreamsOneSlot := by
  intro s running inRange
  have hh := second_half_pos_of_running running inRange
  refine ⟨rfl, fun v hv => ⟨?_, fun notLast notHalf => ?_⟩, fun hnone noFault => ?_⟩
  · obtain ⟨t, drains, emits⟩ := exec_drain_emits running hh hv
    exact ⟨t, drains, emits, (execDrain_drained drains).frame⟩
  · have quiet : ¬ s.drainFires := by
      unfold State.drainFires
      omega
    exact exec_drain_of_quiet running hh quiet hv
  · rw [← State.raise_of_noFault noFault]
    exact execDrain_empty_slot running hnone

/-- Settles O33: slot `H - 1` is consumed with `H + 1` slots left. -/
theorem drainOfSlotBeforeHalfFiresHalfEvent : Obligations.DrainOfSlotBeforeHalfFiresHalfEvent := by
  intro s v halves halfPos slot inRange noHalf noFull hv
  have left : s.rem - 1 = s.cfg.h := by omega
  rw [← slot] at hv
  rw [exec_drain_at_half (by omega) (by omega) (by omega) hv, pending_eq_false.2 ⟨noHalf, noFull⟩, left]
  rfl

/-- Settles O34: slot `C - 1` is consumed with one slot left. -/
theorem drainOfLastSlotWrapsOrHalts : Obligations.DrainOfLastSlotWrapsOrHalts := by
  intro s v halves halfPos last noHalf noFull hv
  rw [← last] at hv
  rw [exec_drain_at_full (by omega) last hv, pending_eq_false.2 ⟨noHalf, noFull⟩]
  exact congrArg Host.Outcome.next (lapEnd_eq_setRem _)

/-- Settles O35: the event due is not set, and the fault names it with the flags found. -/
theorem drainUnderrunsOnAPendingEvent : Obligations.DrainUnderrunsOnAPendingEvent := by
  intro s v halves halfPos running inRange noFault flagged hv
  have hh := second_half_pos_of_running running inRange
  have pending : s.pending = true := by simpa [State.pending] using flagged
  have clean : ∀ r, ((s.emit v).setRem r).fault = none := fun _ => noFault
  refine ⟨s.evFlags, evFlags_toNat s, fun atHalf => ?_, fun last => ?_⟩
  · rw [exec_drain_at_half running hh atHalf hv, if_pos pending, State.raise_of_noFault (clean _)]
    rfl
  · rw [exec_drain_at_full hh last hv, if_pos pending, State.raise_of_noFault (clean _)]
    rfl

/-- Settles O38: the line is blocks of `W` levels, one for each symbol; with `W = 0` there is no clock. -/
theorem lineCarriesTheSymbolsBitByBit : Obligations.LineCarriesTheSymbolsBitByBit := by
  intro s k
  rcases Nat.eq_zero_or_pos s.cfg.w with noWidth | pos
  · simp [State.lineLevels_of_no_width noWidth, noWidth]
  · rw [State.lineLevels, getElem?_flatMap_of_length pos (symbolLevels_length _)]
    simp only [symbolLevels_getElem? (Nat.mod_lt k pos), if_pos pos]

/-- Settles O6, by the issuer of the operation. -/
theorem enabledStepsOfEachAgent : Obligations.EnabledStepsOfEachAgent := by
  intro s
  refine ⟨enabled_drain_iff, fun f => ?_, fun i host => ?_, fun i inside => enabled_of_inside inside s⟩
  · rw [enabled_service_iff, serviceEnabled_iff, ← BitVec.toNat_inj, evFlags_toNat]
    simp only [State.pending, Bool.or_eq_true]
    tauto
  · rw [enabled_host_iff host, pending_eq_false]

/-- Settles O7: the step that would fetch it finds it disabled. -/
theorem disabledStepsAreRefused : Obligations.DisabledStepsAreRefused :=
  fun _ _ _ hc hf hb h he => step_of_fetch_error hc hf (fetch_of_disabled hb h he)

/-- Settles O30: each of the three is its write. -/
theorem ackArmDisarmWriteTheirBits : Obligations.AckArmDisarmWriteTheirBits :=
  fun _ => ⟨rfl, rfl, rfl, rfl, rfl, rfl⟩

/-- Settles O31: the length is checked first, then the engine. -/
theorem setlenSetsLengthOfAHaltedEngine : Obligations.SetlenSetsLengthOfAHaltedEngine := by
  intro s n
  refine ⟨fun legal halted => ?_, fun notZero notCapacity noFault => ?_, fun legal running => ?_⟩
  · rw [exec_setlen_of_legal legal, if_pos halted]
    rfl
  · rw [exec_setlen_of_illegal (not_or.2 ⟨notZero, notCapacity⟩), State.raise_of_noFault noFault]
  · rw [exec_setlen_of_legal legal, if_neg running.ne']

/-- Settles O36: `REM = 0` is looked at first. -/
theorem haltedEngineTakesNoStep : Obligations.HaltedEngineTakesNoStep := by
  refine fun s halted => ⟨?_, exec_drain_of_halted halted⟩
  rw [← Bool.not_eq_true, enabled_drain_iff]
  omega

/-- Settles O37: the answer is the next one listed, or else the free value. -/
theorem getcolorRecordsTheCall : Obligations.GetcolorRecordsTheCall := by
  refine ⟨fun s i a as listed => ?_, fun _ _ => rfl, fun s i none => ⟨s.nextColour 0, ?_⟩⟩
  · rw [exec_getcolor, nextColour_zero_of_answers listed]
    simp [State.logCall, State.setResult, listed]
  · rw [exec_getcolor]
    simp [State.logCall, State.setResult, none]
end

/-! The two ends of a frame: what `START` leaves, and what is left when the frame is over
(spec/70_reset_and_hazards.md R188, R189, R200) -/

section
namespace Sys2Proof.Machine

/-! The start of a frame (R188) -/

/-- What a `START n` that passes its checks leaves: the first `C` symbols of the stream of the colours `f` in the buffer, the
cursor behind them, and the engine started in circular mode. -/
structure SeedsBuffer (f : Nat → Colour) (n : Nat) (s t : State) : Prop where
  done : t.done = false
  ledCount : t.ledCount = some (n : Int)
  circ : t.circ = true
  len : t.len = s.cfg.c
  rem : t.rem = s.cfg.c
  wire : t.wire = []
  slots : ∀ i, i < s.cfg.c → Memory.read t.buf i = some (streamSymbol s.cfg f n i)
  outside : ∀ i, s.cfg.c ≤ i → Memory.read t.buf i = Memory.read s.buf i
  cursor : t.cursor = some (cursorAt s.cfg n s.cfg.c)
  calls : t.calls = (List.range (ledsBefore s.cfg n s.cfg.c)).map Int.ofNat
  frame : t = { s with buf := t.buf, cursor := t.cursor, ledCount := t.ledCount, done := t.done, circ := t.circ,
                       len := t.len, rem := t.rem, wire := t.wire, calls := t.calls, answers := t.answers,
                       draws := t.draws }

/-- The first cursor of a frame is not the terminal value (R22). -/
theorem first_cursor_ne_terminal {cfg : Config} (ok : cfg.Ok) (n : Nat) : -cfg.r ≠ (n : Int) + 1 := by
  have := ok.preNonneg
  omega

/-- The window of the initial `FILL`, then `ARM` and `SETLEN(C)` (R113). -/
theorem Window.seedsBuffer {f : Nat → Colour} {n : Nat} {s u : State} (ok : s.cfg.Ok)
    (w : Window f n 0 0 s.cfg.c false (-s.cfg.r) (s.beginFrame n) u) :
    SeedsBuffer f n s (u.armCircular.setLength s.cfg.c) where
  done := by
    show u.done = false
    simp [w.done, State.beginFrame, first_cursor_ne_terminal ok n]
  ledCount := w.filled.ledCount
  circ := rfl
  len := rfl
  rem := rfl
  wire := w.filled.wire
  slots i hi := by simpa using w.slots i hi
  outside i hi := w.filled.outside i (.inr (by omega))
  cursor := by
    show u.cursor = _
    simp [w.cursor, State.beginFrame, first_cursor_ne_terminal ok n]
  calls := by
    show u.calls = _
    simp [w.calls, ledsBefore, State.beginFrame]
  frame := by
    rw [w.filled.frame]
    rfl

/-! The end of a frame (R189, R200) -/

/-- The stream is silent from the end of the last lap on. -/
theorem streamSymbol_of_past_last_lap {cfg : Config} (ok : cfg.Ok) (f : Nat → Colour) {n i : Nat}
    (h : (closingLap cfg n + 1) * cfg.c ≤ i) : streamSymbol cfg f n i = zeroSymbol :=
  streamSymbol_padding f (Nat.not_lt.2 ((frameSymbols_lt ok n).le.trans h))

/-- When the frame is over, the producer is a whole lap ahead of the engine: the lap that stands in the buffer. -/
theorem State.Streams.producedAt_of_over {f : Nat → Colour} {n : Nat} {s : State} (h : s.Streams f n)
    (ended : s.frameOver) : producedAt s = (closingLap s.cfg n + 1) * s.cfg.c + s.cfg.c := by
  obtain ⟨halted, noHalf, noFull, done, -⟩ := ended
  obtain ⟨-, -, total⟩ := h.closing done
  rw [halted, Nat.add_zero] at total
  have wholeHalves : s.cfg.h ∣ s.wire.length := by
    rw [total, (Config.ok_of h.config).halves]
    exact (Nat.dvd_mul_left _ 2).mul_left _
  rw [producedAt_of_served (pending_eq_false.2 ⟨noHalf, noFull⟩), Nat.mul_div_cancel' wholeHalves, total, Nat.add_comm]

/-- When the frame is over, the lap that stands in the buffer is past the last one sent, so all of it is silence. -/
theorem State.Streams.silent_of_over {f : Nat → Colour} {n : Nat} {s : State} (h : s.Streams f n) (ended : s.frameOver)
    {i : Nat} (hi : i < s.cfg.c) : Memory.read s.buf i = some zeroSymbol := by
  have produced := h.producedAt_of_over ended
  have slot := h.buffer ((closingLap s.cfg n + 1) * s.cfg.c + i) (by omega) (by omega)
  rwa [mod_of_eq (by rw [Nat.mul_comm]) hi,
    streamSymbol_of_past_last_lap (Config.ok_of h.config) f (Nat.le_add_right _ _)] at slot

end Sys2Proof.Machine
end

/-! The obligations of spec/70_reset_and_hazards.md: the two ends of a frame -/

section
open Sys2Proof Sys2Proof.Machine

/-- Settles O26: the initial `FILL` is the window of the stream from index 0 to `C - 1`. -/
theorem startSeedsTheWholeBuffer : Obligations.StartSeedsTheWholeBuffer := by
  intro s n config width inited done halted range
  have ok := Config.ok_of config
  have checks : startFault n s = none :=
    startFault_none.2 ⟨inited, done, halted, (ledCountOk_iff width n).2 ⟨by omega, range⟩⟩
  obtain ⟨u, starts, window⟩ := execStart_window ok checks
  have seeds := window.seedsBuffer ok
  exact ⟨_, starts, seeds.done, seeds.ledCount, seeds.circ, seeds.len, seeds.rem, seeds.wire, seeds.slots, seeds.outside,
    seeds.cursor, seeds.calls, seeds.frame⟩

/-- Settles O50: the wire ends with the last lap, and what the handler wrote after it is silence. -/
theorem frameOverMeansTheWholeStreamWasSent : Obligations.FrameOverMeansTheWholeStreamWasSent := by
  intro s f n stream ended
  obtain ⟨wire, calls⟩ := stream.sent ended
  have silent (i : Nat) (hi : i < s.cfg.c) := stream.silent_of_over ended hi
  obtain ⟨-, -, -, done, -⟩ := ended
  refine ⟨wire, calls, ?_, ?_, silent⟩
  · rw [stream.cursor, done]
    rfl
  · rw [stream.circ, done]
    rfl

end

/-! The default symbol table (R62, R81) -/

section
namespace Sys2Proof

theorem toNat_protocolCell (bit : Bool) : (protocolCell bit).toNat = if bit then 14 else 8 := by
  cases bit <;> rfl

/-- A cell put after others is their next hexadecimal digit. -/
theorem toNat_append_cell {w : Nat} (cells : BitVec w) (cell : BitVec 4) :
    (cells ++ cell).toNat = cells.toNat * 16 + cell.toNat := by
  rw [BitVec.toNat_append, ← Nat.shiftLeft_add_eq_or_of_lt cell.isLt, Nat.shiftLeft_eq]

/-- The cell rule in numbers: hexadecimal digit `k` is the cell of nibble bit `k`. -/
theorem cellSymbol_eq_sum (n : Nibble) :
    cellSymbol n = ((List.range 4).map fun k => (if n.getLsbD k then 14 else 8) * 16 ^ k).sum := by
  have digits : List.range 4 = [0, 1, 2, 3] := rfl
  simp only [cellSymbol, toNat_append_cell, toNat_protocolCell, digits, List.map_cons, List.map_nil, List.sum_cons,
    List.sum_nil]
  ring

/-- R81's sixteen entries, one for each nibble. -/
theorem defaultSym_getElem (n : Nibble) : Config.defaultSym[n.toNat]? = some (cellSymbol n) := by
  revert n
  decide

/-- The default table has sixteen entries of `W` bits, no two the same. -/
theorem Config.initial_passes_cfg4 : Config.initial.passes .cfg4 = true :=
  (Config.passes_cfg4 _).2 ⟨rfl, by decide, by decide⟩

end Sys2Proof

open Sys2Proof

/-- Settles O13: the table is R81's entries looked at one by one, and the cell rule holds digit by digit. -/
theorem defaultTableFollowsTheCellRule : Obligations.DefaultTableFollowsTheCellRule := fun n =>
  ⟨defaultSym_getElem n, cellSymbol_eq_sum n, Config.initial_passes_cfg4⟩

end
